-- ==== Sys2Proof/Word.lean ====
section
/-! DEFINITION. The word types of the engine: the byte of the IN and OUT spaces, the 32-bit register of the
REG space, and the 16-bit lengths (00_scope.md R6, 10_state.md R21, R41, R42). -/

namespace Sys2Proof

/-- The architectural access unit (20_memory.md R66). -/
abbrev Byte := BitVec 8

/-- A register of the REG space (00_scope.md R6). Cursors and bounds are `ADDR_W` bits of it, the upper bits zero. -/
abbrev Word := BitVec 32

/-- A 16-bit length (10_state.md R41, R42). -/
abbrev Half := BitVec 16

end Sys2Proof
end

