-- ==== Sys2Proof/Machine/Operands.lean ====
section
/-! DEFINITION. Every operand form of the format: the token's fields, the behaviour number, little-endian
assembly, and the lengths and distances each form gives. All values are unsigned (30_encoding.md R106). -/

namespace Sys2Proof.Machine

/-- `O = tok[7]` (40_dispatch.md R121). -/
def tokO (t : Byte) : Bool := t.getLsbD 7

/-- `LLL = tok[6:4]` (R121). -/
def tokL (t : Byte) : BitVec 3 := t.extractLsb' 4 3

/-- `MMMM = tok[3:0]` (R121). -/
def tokM (t : Byte) : BitVec 4 := t.extractLsb' 0 4

/-- The token byte `O LLL MMMM` (30_encoding.md R91, R103 `tok`). -/
def tokByte (o : Bool) (l : BitVec 3) (m : BitVec 4) : Byte := BitVec.ofBool o ++ l ++ m

/-- `Bid(t) = 2 * t[6:4] + (1 if t[3:0] = 15 else 0)` (R123). -/
def bidOf (t : Byte) : BitVec 4 := 2 * (tokL t).setWidth 4 + (if tokM t = 15 then 1 else 0)

/-- `LE16(b0, b1) = b0 + 256 * b1`: the byte read first is the low byte (00_scope.md R8, 20_memory.md R65). -/
def le16 (lo hi : Byte) : Half := hi ++ lo

/-- Short literal extension: `7 + e` (R162). -/
def litShort (e : Byte) : Half := 7 + e.setWidth 16

/-- Byte literal extension: `256 + f` (R164). -/
def litByte (f : Byte) : Half := 256 + f.setWidth 16

/-- Inline match length: `MMMM + 3` (R190). -/
def matchInline (m : BitVec 4) : Half := m.setWidth 16 + 3

/-- Short match extension: `18 + e` (R192). -/
def matchShort (e : Byte) : Half := 18 + e.setWidth 16

/-- Byte match extension: `256 + f` (R193). -/
def matchByte (f : Byte) : Half := 256 + f.setWidth 16

/-- One-byte offset: `256 - lo` (R181). -/
def dist8 (lo : Byte) : BitVec 17 := 256 - lo.setWidth 17

/-- Two-byte offset: `65536 - LE16(lo, hi)` (R183). -/
def dist16 (lo hi : Byte) : BitVec 17 := 65536 - (le16 lo hi).setWidth 17

end Sys2Proof.Machine
end

