-- ==== Sys2Proof/Config.lean ====
section
/-! DEFINITION. What a platform fixes: the address width, the sizes of the IN and OUT spaces, the bytes they hold
at power-on, what a host read of OUT shows before the end of a run is seen, and the identification constant
(00_scope.md R6, 10_state.md R34, 93_implementation_defined.md U7, U14, U15). -/

namespace Sys2Proof

/-- Selects the address width among the sixteen the spec allows; no body, so nothing can be proved of its value
(DESIGN CHOICE, log entry 1). -/
opaque Config.addrWSel : Fin 16

/-- `ADDR_W`, the width of the cursors: 17 to 32 (R6). -/
def Config.addrW : Nat := 17 + Config.addrWSel.val

/-- Selects `IN_SIZE`; no body, so nothing can be proved of its value (U14, log entry 2). -/
opaque Config.inSizeSel : Nat

/-- Selects `OUT_SIZE`, as `Config.inSizeSel` selects `IN_SIZE`. -/
opaque Config.outSizeSel : Nat

/-- `IN_SIZE`: any number of bytes up to `2^ADDR_W` (R6, U14). Address 0 exists (20_memory.md R61; DEDUCED, log
entry 2). -/
def Config.inSize : Nat := min (Config.inSizeSel + 1) (2 ^ Config.addrW)

/-- `OUT_SIZE`: as `IN_SIZE` (R6, U14, R62). -/
def Config.outSize : Nat := min (Config.outSizeSel + 1) (2 ^ Config.addrW)

/-- The byte an IN address holds at power-on: a free value of the platform (U7, log entry 3). -/
opaque Config.inPowerOn : Nat → Byte

/-- The byte an OUT address holds at power-on: a free value of the platform (U7, log entry 3). -/
opaque Config.outPowerOn : Nat → Byte

/-- Which of the values the spec allows the `n`-th host read of OUT shows, before the end of a run is seen: 0 the
newest, `k + 1` the one before the `k`-th run back; a free value of the platform (U15, log entry 19). -/
opaque Config.readSel : Nat → Nat

/-- The constant the ID register reads (R34). -/
def Config.idValue : Word := 0x4C5A5331

end Sys2Proof
end

