-- ==== Sys2Proof/Machine/State.lean ====
section
/-! DEFINITION. The state of the engine as plain data: every register and flag of 10_state.md, the IN and OUT
memories, the reasons a step can stop, and the state after reset (10_state.md R47, 70_reset_and_hazards.md R280). -/

namespace Sys2Proof.Machine

/-- The FSM states, in the order of their encoding 0 to 15 (10_state.md R25). -/
inductive Fsm where
  | idle | token | lext | lextB | lextWL | lextWH | lcopy | ofsLo | ofsHi
  | mext | mextB | mextWL | mextWH | mcopy | done | fault
  deriving DecidableEq, Repr

/-- The five out-of-contract events (60_exceptions.md R251). -/
inductive Event where
  | inOverrun | outOverrun | origin | rsvdLext | rsvdMext
  deriving DecidableEq, Repr

/-- Why a step or a host operation stops. -/
inductive Fault where
  /-- `Unspecified(reason)`: raised in unchecked mode by the micro-step of an out-of-contract event
  (00_scope.md R11, 60_exceptions.md R252). SAFE: the spec states nothing of what follows, and the model stops. -/
  | unspecified (e : Event)
  /-- Raised by a host access to the REG space that is not 32 bits wide at a multiple of 4 (10_state.md R35,
  93_implementation_defined.md U6). SAFE: the spec leaves its effect unspecified. -/
  | regAccess
  /-- Raised by a host write to the run's IN block or OUT range while BUSY = 1 (70_reset_and_hazards.md R285,
  93_implementation_defined.md U10). SAFE: the run is then out of contract and nothing is stated of it. -/
  | hostHazard
  /-- Raised by a host access to an IN or OUT address that does not exist (20_memory.md R61, R62).
  SAFE: there is no such byte. -/
  | noSuchAddress
  deriving DecidableEq, Repr

/-- Why an instruction has no meaning. -/
inductive Refusal where
  /-- Raised by an arm of `exec` whose instruction has no meaning yet; no arm does. SAFE: nothing is claimed of it. -/
  | notModelled (mnemonic : String)
  deriving DecidableEq, Repr

/-- One byte memory: (address, byte) pairs, addresses strictly rising. An unlisted address holds no byte of the
state: it reads as its power-on byte, a free value of `Config` (log entries 3, 22). -/
abbrev Mem := List Host.Cell

/-- Everything the spec gives the engine (10_state.md R20, R47). -/
structure State where
  /-- the FSM state register, STATUS.STATE (R44) -/
  st : Fsm
  /-- CTRL.CHK (R22) -/
  chk : Bool
  /-- CTRL.IE (R22) -/
  ie : Bool
  /-- STATUS.FCODE (R24) -/
  fcode : BitVec 4
  /-- STATUS.FSTATE (R24) -/
  fstate : BitVec 4
  /-- the read cursor, IN_PTR (R26, R36) -/
  rp : Word
  /-- IN_END (R27) -/
  inEnd : Word
  /-- OUT_ORG (R28) -/
  org : Word
  /-- the write cursor, OUT_PTR (R29, R37) -/
  wp : Word
  /-- OUT_END (R30) -/
  outEnd : Word
  /-- TOKEN[7:0], the raw token byte (R32, R39) -/
  tok : Byte
  /-- TOKEN[11:8], its behaviour number (R32, R39) -/
  bid : BitVec 4
  /-- the hidden holding register (R40) -/
  ext : Byte
  /-- LLEN, literal bytes still to copy (R41) -/
  llen : Half
  /-- MLEN, match bytes still to copy (R42) -/
  mlen : Half
  /-- DIST, the distance of the current match (R43) -/
  dist : BitVec 17
  /-- the level of the `rst` input (70_reset_and_hazards.md R280) -/
  rst : Bool
  /-- the model's own: `rp` at the last accepted START, the spec's `rp0` (log entry 12) -/
  rp0 : Word
  /-- the IN space (20_memory.md R61) -/
  inMem : Mem
  /-- the OUT space (20_memory.md R62) -/
  outMem : Mem
  /-- the model's own: OUT as it stood at each START since the host last saw BUSY = 0, newest first; a host read may
  still show these bytes (20_memory.md R76, log entry 19) -/
  stale : List Mem
  /-- the model's own: how many host reads of OUT there were, which makes each read's choice a fresh one
  (log entry 19) -/
  hostReads : Nat
  deriving DecidableEq, Repr

/-- The engine after reset with nothing placed in memory: every register's value is the spec's (R47, R280), the
`rst` input is released, and the values of the model's own fields are its own (DESIGN CHOICE, log entries 12, 19). -/
def State.reset : State where
  st := .idle
  chk := false
  ie := false
  fcode := 0
  fstate := 0
  rp := 0
  inEnd := 0
  org := 0
  wp := 0
  outEnd := 0
  tok := 0
  bid := 0
  ext := 0
  llen := 0
  mlen := 0
  dist := 0
  rst := false
  rp0 := 0
  inMem := []
  outMem := []
  stale := []
  hostReads := 0

end Sys2Proof.Machine
end

