-- ==== Sys2Proof/Machine/Flags.lean ====
section
/-! DEFINITION. The status flags and what is computed from them: the STATE encoding, BUSY, DONE, FAULT, the fault
codes, STATUS, RESULT and `irq`. The format has no arithmetic flags (10_state.md R45). -/

namespace Sys2Proof.Machine

/-- The encoding of STATE (10_state.md R25). -/
def fsmCode : Fsm → BitVec 4
  | .idle => 0
  | .token => 1
  | .lext => 2
  | .lextB => 3
  | .lextWL => 4
  | .lextWH => 5
  | .lcopy => 6
  | .ofsLo => 7
  | .ofsHi => 8
  | .mext => 9
  | .mextB => 10
  | .mextWL => 11
  | .mextWH => 12
  | .mcopy => 13
  | .done => 14
  | .fault => 15

/-- The fault codes (60_exceptions.md R253). -/
def eventCode : Event → BitVec 4
  | .inOverrun => 1
  | .outOverrun => 2
  | .origin => 3
  | .rsvdLext => 4
  | .rsvdMext => 5

/-- BUSY: STATE is neither IDLE, DONE nor FAULT (R24). -/
def isBusy (s : State) : Bool := s.st != .idle && s.st != .done && s.st != .fault

/-- DONE: STATE is DONE (R24). -/
def isDone (s : State) : Bool := s.st == .done

/-- FAULT: STATE is FAULT (R24). -/
def isFault (s : State) : Bool := s.st == .fault

/-- The level output `irq = IE and (DONE or FAULT)` (60_exceptions.md R260). -/
def irq (s : State) : Bool := s.ie && (isDone s || isFault s)

/-- STATUS: FSTATE in 15:12, FCODE in 11:8, 0 in 7, FAULT in 6, DONE in 5, BUSY in 4, STATE in 3:0 (R24). -/
def statusWord (s : State) : Word :=
  0#16 ++ s.fstate ++ s.fcode ++ 0#1 ++ BitVec.ofBool (isFault s) ++ BitVec.ofBool (isDone s)
    ++ BitVec.ofBool (isBusy s) ++ fsmCode s.st

/-- CTRL reads IE in 2, CHK in 1, and START as 0 (R22). -/
def ctrlWord (s : State) : Word := 0#29 ++ BitVec.ofBool s.ie ++ BitVec.ofBool s.chk ++ 0#1

/-- TOKEN: `bid` in 11:8, `tok` in 7:0 (R32). -/
def tokenWord (s : State) : Word := 0#20 ++ s.bid ++ s.tok

/-- Whether a value has at most `ADDR_W` bits; below `2^17` this holds for every `ADDR_W` (00_scope.md R6), and is
answered without it. -/
def fitsAddr (n : Nat) : Bool := n < 2 ^ 17 || n < 2 ^ Config.addrW

/-- An IN address below `IN_SIZE` exists (20_memory.md R61). -/
def inExists (a : Nat) : Bool := a < Config.inSize

/-- An OUT address below `OUT_SIZE` exists (R62). -/
def outExists (a : Nat) : Bool := a < Config.outSize

/-- A value written to an `ADDR_W`-bit register: bits `[31:ADDR_W]` ignore writes (R26). -/
def truncAddr (v : Word) : Word :=
  if fitsAddr v.toNat then v else BitVec.ofNat 32 (v.toNat % 2 ^ Config.addrW)

/-- RESULT reads `(wp - org) mod 2^ADDR_W` at all times (R31); `ADDR_W` is at most 32, so the difference may be
taken modulo `2^32` first. -/
def resultWord (s : State) : Word := truncAddr (s.wp - s.org)

end Sys2Proof.Machine
end

