-- ==== Sys2Proof/Machine/Ops.lean ====
section
/-! DEFINITION. The named operations over memory and registers: byte memory, the IN and OUT ports, the updates of
the datapath registers, `InByte`, `OutByte`, fault entry, and the shape every micro-step has. -/

namespace Sys2Proof.Machine

/-! ### Byte memory -/

/-- The byte listed at an address, if any. -/
def Mem.read : Mem → Nat → Option Byte
  | [], _ => none
  | (b, v) :: m, a => if a = b then some v else Mem.read m a

/-- Store a byte, keeping the addresses strictly rising. -/
def Mem.write : Mem → Nat → Byte → Mem
  | [], a, v => [(a, v)]
  | (b, w) :: m, a, v =>
    if a < b then (a, v) :: (b, w) :: m
    else if a = b then (a, v) :: m
    else (b, w) :: Mem.write m a v

/-- Every listed address lies above `lo`, and the addresses rise strictly. -/
def Mem.risesFrom : Nat → Mem → Bool
  | _, [] => true
  | lo, (b, _) :: m => decide (lo ≤ b) && Mem.risesFrom (b + 1) m

/-- The canonical form: addresses strictly rising. No entry can equal what an unlisted address holds, for that is
no byte of the state (log entry 22). -/
def Mem.wf (m : Mem) : Bool := Mem.risesFrom 0 m

/-- A write to OUT. An address from `OUT_SIZE` upward has no byte: the port completes and nothing changes
(20_memory.md R62, R81; DEDUCED, log entry 26). -/
def Mem.writeOut (m : Mem) (a : Nat) (v : Byte) : Mem := if a < Config.outSize then m.write a v else m

/-- Every listed address is below a bound. -/
def Mem.below (n : Nat) (m : Mem) : Bool := m.all fun c => decide (c.1 < n)

/-! ### The ports: a read always returns a byte (20_memory.md R81) -/

/-- `MemRead(IN:a, 1)` (00_scope.md R10). -/
def State.readIn (s : State) (a : Nat) : Byte := (s.inMem.read a).getD (Config.inPowerOn a)

/-- `MemRead(OUT:a, 1)` (R10). -/
def State.readOut (s : State) (a : Nat) : Byte := (s.outMem.read a).getD (Config.outPowerOn a)

/-- `MemWrite(OUT:a, 1, v)` (R10): changes only the addressed byte (20_memory.md R68). -/
def State.writeOut (s : State) (a : Nat) (v : Byte) : State := { s with outMem := s.outMem.writeOut a v }

/-! ### Register updates -/

/-- The FSM state whose action the engine performs: while `rst` is asserted there is none, as in IDLE
(70_reset_and_hazards.md R280). -/
def State.active (s : State) : Fsm := if s.rst then .idle else s.st

/-- `goto S` (00_scope.md R11). -/
def State.goto (s : State) (f : Fsm) : State := { s with st := f }

/-- `rp <- rp + 1` (20_memory.md R70). -/
def State.advanceIn (s : State) : State := { s with rp := s.rp + 1 }

/-- `wp <- wp + 1` (R71). -/
def State.advanceOut (s : State) : State := { s with wp := s.wp + 1 }

/-- `tok <- t; bid <- b` (40_dispatch.md R120). -/
def State.setToken (s : State) (t : Byte) (b : BitVec 4) : State := { s with tok := t, bid := b }

/-- `ext <- v` (10_state.md R40). -/
def State.setExt (s : State) (v : Byte) : State := { s with ext := v }

/-- `llen <- n` (R41). -/
def State.setLlen (s : State) (n : Half) : State := { s with llen := n }

/-- `mlen <- n` (R42). -/
def State.setMlen (s : State) (n : Half) : State := { s with mlen := n }

/-- `dist <- d` (R43). -/
def State.setDist (s : State) (d : BitVec 17) : State := { s with dist := d }

/-! ### Taking a fault, and what a micro-step may do -/

/-- Fault entry (60_exceptions.md R254): the code and the faulting state are recorded, the engine stops in FAULT,
and everything else is as before the micro-step. There is no return from it (R257): START begins a new run. -/
def State.takeFault (s : State) (f : Fsm) (e : Event) : State :=
  { s with fcode := eventCode e, fstate := fsmCode f, st := .fault }

/-- An out-of-contract event in a micro-step of state `f`: fault entry in checked mode, `Unspecified` in unchecked
mode (R250, R251). `s` is the state before the micro-step, so the micro-step commits nothing (00_scope.md R11). -/
def raise (s : State) (f : Fsm) (e : Event) : Host.Outcome State Fault Refusal :=
  if s.chk then .next (s.takeFault f e) else .fault (.unspecified e)

/-- The work of a micro-step: it may raise an event, or answer the state it commits. -/
abbrev Micro := Except Event State

/-- Run a micro-step of state `f` from `s`: commit all of it, or raise and commit none of it (R11, 44_control.md R220). -/
def commit (s : State) (f : Fsm) : Micro → Host.Outcome State Fault Refusal
  | .ok t => .next t
  | .error e => raise s f e

/-- `InByte()` but for the byte itself, which is `s.readIn s.rp.toNat`: the bound test and the advance
(20_memory.md R70). -/
def inByte (s : State) : Micro :=
  if s.inEnd ≤ s.rp then .error .inOverrun else .ok s.advanceIn

/-- `OutByte(v)` (R71). -/
def outByte (s : State) (v : Byte) : Micro :=
  if s.outEnd ≤ s.wp then .error .outOverrun else .ok (s.writeOut s.wp.toNat v).advanceOut

/-- A micro-step of state `f` that reads one byte of the block and then updates registers. -/
def readStep (s : State) (f : Fsm) (update : State → State) : Host.Outcome State Fault Refusal :=
  commit s f ((inByte s).map update)

/-- A micro-step of state `f` that reads one byte of the block and finds it reserved (30_encoding.md R98): the read
is tested first (60_exceptions.md R256). -/
def reservedStep (s : State) (f : Fsm) (e : Event) : Host.Outcome State Fault Refusal :=
  commit s f ((inByte s).bind fun _ => .error e)

end Sys2Proof.Machine
end

