-- ==== Sys2Proof/Machine/Literal.lean ====
section
/-! DEFINITION. The literal-length resolver and the literal copier (41_literal.md). A meaning is the micro-step of
its instruction: the continuation states select the later micro-steps, every other state the first one
(log entry 4). -/

namespace Sys2Proof.Machine

/-- `llen <- n`, then LCOPY if a literal is to be copied, otherwise OFS_LO (41_literal.md R167). -/
def literalLength (n : Half) (s : State) : State :=
  (s.setLlen n).goto (if n = 0 then .ofsLo else .lcopy)

/-- State LCOPY: one literal byte from IN to OUT (R168). The read is tested before the write (60_exceptions.md R256). -/
def literalCopy (s : State) : Host.Outcome State Fault Refusal :=
  commit s .lcopy
    (((inByte s).bind fun t => outByte t (s.readIn s.rp.toNat)).map fun t => literalLength (t.llen - 1) t)

/-- LEXT_SHORT: `llen <- 7 + e` (R161, R162). -/
def execLextShort (e : Byte) (s : State) : Host.Outcome State Fault Refusal :=
  readStep s .lext (literalLength (litShort e))

/-- LEXT_WORD: F9, then the low byte into `ext`, then the high byte gives `llen <- LE16(ext, h)` (R161, R165). -/
def execLextWord (lo hi : Byte) (s : State) : Host.Outcome State Fault Refusal :=
  match s.st with
  | .lextWL => readStep s .lextWL fun t => (t.setExt lo).goto .lextWH
  | .lextWH => readStep s .lextWH fun t => literalLength (le16 t.ext hi) t
  | _ => readStep s .lext fun t => t.goto .lextWL

/-- LEXT_BYTE: FA, then the byte gives `llen <- 256 + f` (R161, R164). -/
def execLextByte (f : Byte) (s : State) : Host.Outcome State Fault Refusal :=
  match s.st with
  | .lextB => readStep s .lextB (literalLength (litByte f))
  | _ => readStep s .lext fun t => t.goto .lextB

/-- LEXT_RSVD: raises RSVD_LEXT (R163). -/
def execLextRsvd (_e : Byte) (s : State) : Host.Outcome State Fault Refusal :=
  reservedStep s .lext .rsvdLext

end Sys2Proof.Machine
end

