-- ==== Sys2Proof/Machine/Match.lean ====
section
/-! DEFINITION. The match-length resolver with the sentinel, and the match copier (43_match.md). -/

namespace Sys2Proof.Machine

/-- `mlen <- n`, then MCOPY (43_match.md R191 to R194). -/
def matchLength (n : Half) (s : State) : State := (s.setMlen n).goto .mcopy

/-- The end of state MEXT_WH: a zero word is the sentinel and ends the run, any other is the match length
(R194, R197). -/
def matchWord (w : Half) (s : State) : State := if w = 0 then s.goto .done else matchLength w s

/-- `dist > wp - org`, in exact arithmetic (R201; DEDUCED, log entry 8). -/
def beforeOrigin (s : State) : Bool := s.wp.toNat < s.org.toNat + s.dist.toNat

/-- The OUT address a match byte is read from, `wp - dist` (R200). -/
def matchSource (s : State) : Nat := s.wp.toNat - s.dist.toNat

/-- `mlen <- mlen - 1`, then TOKEN after the last byte of the match (R200, R206). -/
def countMatchByte (s : State) : State :=
  (s.setMlen (s.mlen - 1)).goto (if s.mlen - 1 = 0 then .token else .mcopy)

/-- State MCOPY: one match byte from OUT to OUT (R200). The origin is tested first, then the write (60_exceptions.md
R256). -/
def matchCopy (s : State) : Host.Outcome State Fault Refusal :=
  commit s .mcopy
    (if beforeOrigin s then .error .origin else (outByte s (s.readOut (matchSource s))).map countMatchByte)

/-- MEXT_SHORT: `mlen <- 18 + e` (R191, R192). -/
def execMextShort (e : Byte) (s : State) : Host.Outcome State Fault Refusal :=
  readStep s .mext (matchLength (matchShort e))

/-- MEXT_WORD: EE, then the low byte into `ext`, then the high byte gives `LE16(ext, h)` (R191, R194). -/
def execMextWord (lo hi : Byte) (s : State) : Host.Outcome State Fault Refusal :=
  match s.st with
  | .mextWL => readStep s .mextWL fun t => (t.setExt lo).goto .mextWH
  | .mextWH => readStep s .mextWH fun t => matchWord (le16 t.ext hi) t
  | _ => readStep s .mext fun t => t.goto .mextWL

/-- MEXT_EOD: EE, then a zero byte into `ext`, then a zero byte ends the run (R191, R194, R197). -/
def execMextEod (s : State) : Host.Outcome State Fault Refusal :=
  match s.st with
  | .mextWL => readStep s .mextWL fun t => (t.setExt 0).goto .mextWH
  | .mextWH => readStep s .mextWH fun t => t.goto .done
  | _ => readStep s .mext fun t => t.goto .mextWL

/-- MEXT_BYTE: EF, then the byte gives `mlen <- 256 + f` (R191, R193). -/
def execMextByte (f : Byte) (s : State) : Host.Outcome State Fault Refusal :=
  match s.st with
  | .mextB => readStep s .mextB (matchLength (matchByte f))
  | _ => readStep s .mext fun t => t.goto .mextB

/-- MEXT_RSVD: raises RSVD_MEXT (R195). -/
def execMextRsvd (_e : Byte) (s : State) : Host.Outcome State Fault Refusal :=
  reservedStep s .mext .rsvdMext

end Sys2Proof.Machine
end

