-- ==== Sys2Proof/Machine/Offset.lean ====
section
/-! DEFINITION. The offset resolver (42_offset.md). -/

namespace Sys2Proof.Machine

/-- `AfterOffset`: an inline match field gives its length and goes to MCOPY, an extended one goes to MEXT
(42_offset.md R185, 43_match.md R190). -/
def afterOffset (s : State) : State :=
  if tokM s.tok = 15 then s.goto .mext else (s.setMlen (matchInline (tokM s.tok))).goto .mcopy

/-- OFS8: `dist <- 256 - lo` (R180, R181). -/
def execOfs8 (lo : Byte) (s : State) : Host.Outcome State Fault Refusal :=
  readStep s .ofsLo fun t => afterOffset (t.setDist (dist8 lo))

/-- OFS16: the low byte into `ext`, then the high byte gives `dist <- 65536 - LE16(ext, h)` (R180, R182, R183). -/
def execOfs16 (lo hi : Byte) (s : State) : Host.Outcome State Fault Refusal :=
  match s.st with
  | .ofsHi => readStep s .ofsHi fun t => afterOffset (t.setDist (dist16 t.ext hi))
  | _ => readStep s .ofsLo fun t => (t.setExt lo).goto .ofsHi

end Sys2Proof.Machine
end

