-- ==== Sys2Proof/Machine/Token.lean ====
section
/-! DEFINITION. The sixteen token behaviours (40_dispatch.md R120, R127 to R142). A behaviour's own micro-steps are
the token read, its literal copies and its match copies; the extension and offset bytes between them are
instructions of their own (R126). -/

namespace Sys2Proof.Machine

/-- State TOKEN for a token whose literal length is inline: `tok`, `bid` and `llen` are written and the literal
length routes (R120, 41_literal.md R160, R167). -/
def inlineToken (t : Byte) (b : BitVec 4) (n : Half) (s : State) : Host.Outcome State Fault Refusal :=
  readStep s .token fun u => literalLength n (u.setToken t b)

/-- State TOKEN for a token whose literal length is extended: `tok` and `bid` are written, then LEXT (R120). -/
def extendedToken (t : Byte) (b : BitVec 4) (s : State) : Host.Outcome State Fault Refusal :=
  readStep s .token fun u => (u.setToken t b).goto .lext

/-- A token behaviour's micro-step in state `s`: a literal byte in LCOPY, a match byte in MCOPY, and the token read
`first` in TOKEN (R126; in no other state does the engine run a token, log entry 4). -/
def tokenMicro (first : State → Host.Outcome State Fault Refusal) (s : State) : Host.Outcome State Fault Refusal :=
  match s.st with
  | .lcopy => literalCopy s
  | .mcopy => matchCopy s
  | _ => first s

/-- TOK_L0_M, BID 0: 0 literals, inline match (R127). -/
def execTokL0M (o : Bool) (m : BitVec 4) (s : State) : Host.Outcome State Fault Refusal :=
  tokenMicro (inlineToken (tokByte o 0 m) 0 0) s

/-- TOK_L0_MX, BID 1: 0 literals, extended match (R128). -/
def execTokL0MX (o : Bool) (s : State) : Host.Outcome State Fault Refusal :=
  tokenMicro (inlineToken (tokByte o 0 15) 1 0) s

/-- TOK_L1_M, BID 2: 1 literal, inline match (R129). -/
def execTokL1M (o : Bool) (m : BitVec 4) (s : State) : Host.Outcome State Fault Refusal :=
  tokenMicro (inlineToken (tokByte o 1 m) 2 1) s

/-- TOK_L1_MX, BID 3: 1 literal, extended match (R130). -/
def execTokL1MX (o : Bool) (s : State) : Host.Outcome State Fault Refusal :=
  tokenMicro (inlineToken (tokByte o 1 15) 3 1) s

/-- TOK_L2_M, BID 4: 2 literals, inline match (R131). -/
def execTokL2M (o : Bool) (m : BitVec 4) (s : State) : Host.Outcome State Fault Refusal :=
  tokenMicro (inlineToken (tokByte o 2 m) 4 2) s

/-- TOK_L2_MX, BID 5: 2 literals, extended match (R132). -/
def execTokL2MX (o : Bool) (s : State) : Host.Outcome State Fault Refusal :=
  tokenMicro (inlineToken (tokByte o 2 15) 5 2) s

/-- TOK_L3_M, BID 6: 3 literals, inline match (R133). -/
def execTokL3M (o : Bool) (m : BitVec 4) (s : State) : Host.Outcome State Fault Refusal :=
  tokenMicro (inlineToken (tokByte o 3 m) 6 3) s

/-- TOK_L3_MX, BID 7: 3 literals, extended match (R134). -/
def execTokL3MX (o : Bool) (s : State) : Host.Outcome State Fault Refusal :=
  tokenMicro (inlineToken (tokByte o 3 15) 7 3) s

/-- TOK_L4_M, BID 8: 4 literals, inline match (R135). -/
def execTokL4M (o : Bool) (m : BitVec 4) (s : State) : Host.Outcome State Fault Refusal :=
  tokenMicro (inlineToken (tokByte o 4 m) 8 4) s

/-- TOK_L4_MX, BID 9: 4 literals, extended match (R136). -/
def execTokL4MX (o : Bool) (s : State) : Host.Outcome State Fault Refusal :=
  tokenMicro (inlineToken (tokByte o 4 15) 9 4) s

/-- TOK_L5_M, BID 10: 5 literals, inline match (R137). -/
def execTokL5M (o : Bool) (m : BitVec 4) (s : State) : Host.Outcome State Fault Refusal :=
  tokenMicro (inlineToken (tokByte o 5 m) 10 5) s

/-- TOK_L5_MX, BID 11: 5 literals, extended match (R138). -/
def execTokL5MX (o : Bool) (s : State) : Host.Outcome State Fault Refusal :=
  tokenMicro (inlineToken (tokByte o 5 15) 11 5) s

/-- TOK_L6_M, BID 12: 6 literals, inline match (R139). -/
def execTokL6M (o : Bool) (m : BitVec 4) (s : State) : Host.Outcome State Fault Refusal :=
  tokenMicro (inlineToken (tokByte o 6 m) 12 6) s

/-- TOK_L6_MX, BID 13: 6 literals, extended match (R140). -/
def execTokL6MX (o : Bool) (s : State) : Host.Outcome State Fault Refusal :=
  tokenMicro (inlineToken (tokByte o 6 15) 13 6) s

/-- TOK_LX_M, BID 14: extended literal length, inline match (R141). -/
def execTokLXM (o : Bool) (m : BitVec 4) (s : State) : Host.Outcome State Fault Refusal :=
  tokenMicro (extendedToken (tokByte o 7 m) 14) s

/-- TOK_LX_MX, BID 15: extended literal length, extended match (R142). -/
def execTokLXMX (o : Bool) (s : State) : Host.Outcome State Fault Refusal :=
  tokenMicro (extendedToken (tokByte o 7 15) 15) s

end Sys2Proof.Machine
end

