-- ==== Sys2Proof/Syntax.lean ====
section
/-! DEFINITION. The instructions of the engine: one constructor per row of spec/opcode_table.json.
The rows stand in four spaces (30_encoding.md R91, R93, R94, R97), and the FSM state says which space the next
byte belongs to. `o` is the token's bit 7, `m` its bits 3-0; `lo` and `hi` are the first and second byte of a
little-endian pair. -/

namespace Sys2Proof

/-- The four encoding spaces; the offset space depends on the token's `O` bit (R97). -/
inductive Space where
  | token
  | litExt
  | ofs (wide : Bool)
  | matchExt
  deriving DecidableEq, Repr

/-- The instructions, in the order of the opcode table. -/
inductive Instr where
  | tokL0M (o : Bool) (m : BitVec 4)   -- R127
  | tokL0MX (o : Bool)                 -- R128
  | tokL1M (o : Bool) (m : BitVec 4)   -- R129
  | tokL1MX (o : Bool)                 -- R130
  | tokL2M (o : Bool) (m : BitVec 4)   -- R131
  | tokL2MX (o : Bool)                 -- R132
  | tokL3M (o : Bool) (m : BitVec 4)   -- R133
  | tokL3MX (o : Bool)                 -- R134
  | tokL4M (o : Bool) (m : BitVec 4)   -- R135
  | tokL4MX (o : Bool)                 -- R136
  | tokL5M (o : Bool) (m : BitVec 4)   -- R137
  | tokL5MX (o : Bool)                 -- R138
  | tokL6M (o : Bool) (m : BitVec 4)   -- R139
  | tokL6MX (o : Bool)                 -- R140
  | tokLXM (o : Bool) (m : BitVec 4)   -- R141
  | tokLXMX (o : Bool)                 -- R142
  | ofs8 (lo : Byte)                   -- R181
  | ofs16 (lo hi : Byte)               -- R183
  | lextShort (e : Byte)               -- R162
  | lextWord (lo hi : Byte)            -- R165
  | lextByte (f : Byte)                -- R164
  | lextRsvd (e : Byte)                -- R163
  | mextShort (e : Byte)               -- R192
  | mextWord (lo hi : Byte)            -- R194
  | mextEod                            -- R197
  | mextByte (f : Byte)                -- R193
  | mextRsvd (e : Byte)                -- R195
  deriving DecidableEq, Repr

/-- The space an instruction belongs to. -/
def Instr.space : Instr → Space
  | .tokL0M _ _ | .tokL0MX _ | .tokL1M _ _ | .tokL1MX _ | .tokL2M _ _ | .tokL2MX _ | .tokL3M _ _ | .tokL3MX _
  | .tokL4M _ _ | .tokL4MX _ | .tokL5M _ _ | .tokL5MX _ | .tokL6M _ _ | .tokL6MX _ | .tokLXM _ _ | .tokLXMX _ => .token
  | .ofs8 _ => .ofs false
  | .ofs16 _ _ => .ofs true
  | .lextShort _ | .lextWord _ _ | .lextByte _ | .lextRsvd _ => .litExt
  | .mextShort _ | .mextWord _ _ | .mextEod | .mextByte _ | .mextRsvd _ => .matchExt

/-- The bytes an instruction takes in the block (30_encoding.md R93, R94, R97: 1, 2 or 3). A token counts its
token byte only; the fields after it are instructions of their own or literal data. -/
def Instr.size : Instr → Nat
  | .ofs16 _ _ | .lextByte _ | .mextByte _ => 2
  | .lextWord _ _ | .mextWord _ _ | .mextEod => 3
  | .tokL0M _ _ | .tokL1M _ _ | .tokL2M _ _ | .tokL3M _ _ | .tokL4M _ _ | .tokL5M _ _ | .tokL6M _ _ | .tokLXM _ _
  | .tokL0MX _ | .tokL1MX _ | .tokL2MX _ | .tokL3MX _ | .tokL4MX _ | .tokL5MX _ | .tokL6MX _ | .tokLXMX _
  | .ofs8 _ | .lextShort _ | .lextRsvd _ | .mextShort _ | .mextRsvd _ => 1

end Sys2Proof
end

