-- ==== Sys2Proof/Machine/Dispatch.lean ====
section
/-! DEFINITION. The dispatch: one arm per instruction, one direct call of its meaning. -/

namespace Sys2Proof.Machine

def exec (i : Instr) (s : State) : Host.Outcome State Fault Refusal :=
  match i with
  -- token behaviours
  | .tokL0M o m => Sys2Proof.Machine.execTokL0M o m s
  | .tokL0MX o => Sys2Proof.Machine.execTokL0MX o s
  | .tokL1M o m => Sys2Proof.Machine.execTokL1M o m s
  | .tokL1MX o => Sys2Proof.Machine.execTokL1MX o s
  | .tokL2M o m => Sys2Proof.Machine.execTokL2M o m s
  | .tokL2MX o => Sys2Proof.Machine.execTokL2MX o s
  | .tokL3M o m => Sys2Proof.Machine.execTokL3M o m s
  | .tokL3MX o => Sys2Proof.Machine.execTokL3MX o s
  | .tokL4M o m => Sys2Proof.Machine.execTokL4M o m s
  | .tokL4MX o => Sys2Proof.Machine.execTokL4MX o s
  | .tokL5M o m => Sys2Proof.Machine.execTokL5M o m s
  | .tokL5MX o => Sys2Proof.Machine.execTokL5MX o s
  | .tokL6M o m => Sys2Proof.Machine.execTokL6M o m s
  | .tokL6MX o => Sys2Proof.Machine.execTokL6MX o s
  | .tokLXM o m => Sys2Proof.Machine.execTokLXM o m s
  | .tokLXMX o => Sys2Proof.Machine.execTokLXMX o s
  -- offsets
  | .ofs8 lo => Sys2Proof.Machine.execOfs8 lo s
  | .ofs16 lo hi => Sys2Proof.Machine.execOfs16 lo hi s
  -- literal-length extensions
  | .lextShort e => Sys2Proof.Machine.execLextShort e s
  | .lextWord lo hi => Sys2Proof.Machine.execLextWord lo hi s
  | .lextByte f => Sys2Proof.Machine.execLextByte f s
  | .lextRsvd e => Sys2Proof.Machine.execLextRsvd e s
  -- match-length extensions
  | .mextShort e => Sys2Proof.Machine.execMextShort e s
  | .mextWord lo hi => Sys2Proof.Machine.execMextWord lo hi s
  | .mextEod => Sys2Proof.Machine.execMextEod s
  | .mextByte f => Sys2Proof.Machine.execMextByte f s
  | .mextRsvd e => Sys2Proof.Machine.execMextRsvd e s

end Sys2Proof.Machine
end

