-- ==== Sys2Proof/WellFormed.lean ====
section
/-! DEFINITION. Which instructions are words of their row: the operand ranges of the opcode table's constraints. -/

namespace Sys2Proof

/-- An inline match field is 0 to 14 (R190); a literal extension is short for 0 to 248 and reserved for 251 to 255
(R162, R163); a match extension is short for 0 to 237 and reserved for 240 to 255 (R192, R195); a word match
length is not zero, for zero is the sentinel (R194, R197). -/
def Instr.wf : Instr → Bool
  | .tokL0M _ m | .tokL1M _ m | .tokL2M _ m | .tokL3M _ m | .tokL4M _ m | .tokL5M _ m | .tokL6M _ m
  | .tokLXM _ m => m != 15
  | .lextShort e => e.toNat ≤ 248
  | .lextRsvd e => 251 ≤ e.toNat
  | .mextShort e => e.toNat ≤ 237
  | .mextRsvd e => 240 ≤ e.toNat
  | .mextWord lo hi => !(lo == 0 && hi == 0)
  | .tokL0MX _ | .tokL1MX _ | .tokL2MX _ | .tokL3MX _ | .tokL4MX _ | .tokL5MX _ | .tokL6MX _ | .tokLXMX _
  | .ofs8 _ | .ofs16 _ _ | .lextWord _ _ | .lextByte _ | .mextEod | .mextByte _ => true

end Sys2Proof
end

