-- ==== Sys2Proof/Decode.lean ====
section
/-! DEFINITION. The decoder, total on any bytes, and the encoder after it (30_encoding.md R91 to R97, R102).
The bits alone do not name the space: the FSM state does, so the decoder takes the space. -/

namespace Sys2Proof

open Machine

/-- The token behaviour the three fields select: 16 cases on `LLL` and `MMMM = 15` (40_dispatch.md R122, R123). -/
def tokenInstr (o : Bool) (l : BitVec 3) (m : BitVec 4) : Instr :=
  if m = 15 then
    match l.toNat with
    | 0 => .tokL0MX o
    | 1 => .tokL1MX o
    | 2 => .tokL2MX o
    | 3 => .tokL3MX o
    | 4 => .tokL4MX o
    | 5 => .tokL5MX o
    | 6 => .tokL6MX o
    | _ => .tokLXMX o
  else
    match l.toNat with
    | 0 => .tokL0M o m
    | 1 => .tokL1M o m
    | 2 => .tokL2M o m
    | 3 => .tokL3M o m
    | 4 => .tokL4M o m
    | 5 => .tokL5M o m
    | 6 => .tokL6M o m
    | _ => .tokLXM o m

/-- The instruction a window of three bytes holds in a space. A form shorter than three bytes ignores the rest of
the window: no byte's meaning depends on a byte after its form (R102). -/
def decodeAt (sp : Space) (b0 b1 b2 : Byte) : Instr :=
  match sp with
  | .token => tokenInstr (tokO b0) (tokL b0) (tokM b0)
  | .litExt =>
    if b0.toNat ≤ 248 then .lextShort b0
    else if b0 = 250 then .lextByte b1
    else if b0 = 249 then .lextWord b1 b2
    else .lextRsvd b0
  | .ofs false => .ofs8 b0
  | .ofs true => .ofs16 b0 b1
  | .matchExt =>
    if b0.toNat ≤ 237 then .mextShort b0
    else if b0 = 238 then (if b1 = 0 ∧ b2 = 0 then .mextEod else .mextWord b1 b2)
    else if b0 = 239 then .mextByte b1
    else .mextRsvd b0

/-- Why a list of bytes holds no whole instruction. Every first byte is an instruction of its space (30_encoding.md
R92, R93, R94, R97), so the only reasons are missing bytes. -/
inductive DecodeError where
  | noByte (sp : Space)
  | truncated (sp : Space) (size : Nat)
  deriving DecidableEq, Repr

/-- Decode the instruction at the head of a list of bytes; answer it with the bytes after it. -/
def decode (sp : Space) (bs : List Byte) : Except DecodeError (Instr × List Byte) :=
  match bs with
  | [] => .error (.noByte sp)
  | b0 :: rest =>
    let i := decodeAt sp b0 (rest.getD 0 0) (rest.getD 1 0)
    if bs.length < i.size then .error (.truncated sp i.size) else .ok (i, bs.drop i.size)

/-- The bytes of an instruction, in address order, written from the encoding tables (R91, R93, R94, R97). -/
def encode : Instr → List Byte
  | .tokL0M o m => [tokByte o 0 m]
  | .tokL0MX o => [tokByte o 0 15]
  | .tokL1M o m => [tokByte o 1 m]
  | .tokL1MX o => [tokByte o 1 15]
  | .tokL2M o m => [tokByte o 2 m]
  | .tokL2MX o => [tokByte o 2 15]
  | .tokL3M o m => [tokByte o 3 m]
  | .tokL3MX o => [tokByte o 3 15]
  | .tokL4M o m => [tokByte o 4 m]
  | .tokL4MX o => [tokByte o 4 15]
  | .tokL5M o m => [tokByte o 5 m]
  | .tokL5MX o => [tokByte o 5 15]
  | .tokL6M o m => [tokByte o 6 m]
  | .tokL6MX o => [tokByte o 6 15]
  | .tokLXM o m => [tokByte o 7 m]
  | .tokLXMX o => [tokByte o 7 15]
  | .ofs8 lo => [lo]
  | .ofs16 lo hi => [lo, hi]
  | .lextShort e => [e]
  | .lextWord lo hi => [0xF9, lo, hi]
  | .lextByte f => [0xFA, f]
  | .lextRsvd e => [e]
  | .mextShort e => [e]
  | .mextWord lo hi => [0xEE, lo, hi]
  | .mextEod => [0xEE, 0x00, 0x00]
  | .mextByte f => [0xEF, f]
  | .mextRsvd e => [e]

/-- Byte `k` of an instruction numbered as the opcode table numbers it: byte 0 in bits 7-0, the next in 15-8. -/
def tableByte (w k : Nat) : Byte := BitVec.ofNat 8 (w / 2 ^ (8 * k))

/-- The space in which a word of the opcode table is read. The table's bits do not say the space, so this is the
model's choice (DESIGN CHOICE, log entry 11): first bytes 0xF8 to 0xFF, which hold the fixed bits of LEXT_WORD,
LEXT_BYTE and LEXT_RSVD, are read as literal extensions; 0xEE to 0xF7, the fixed bits of MEXT_WORD, MEXT_EOD,
MEXT_BYTE and MEXT_RSVD, as match extensions; a 16-bit word whose first byte is zero, the bits of the only
two-byte row without fixed bits, as OFS16; every other word as a token byte. -/
def tableSpace (nbits w : Nat) : Space :=
  if 0xF8 ≤ (tableByte w 0).toNat then .litExt
  else if 0xEE ≤ (tableByte w 0).toNat then .matchExt
  else if nbits = 16 ∧ tableByte w 0 = 0 then .ofs true
  else .token

/-- The instruction the decoder reads from a word of the opcode table; the bits above `nbits` are zero. -/
def decodeTableWord (nbits w : Nat) : Option Instr :=
  let v := w % 2 ^ nbits
  some (decodeAt (tableSpace nbits v) (tableByte v 0) (tableByte v 1) (tableByte v 2))

end Sys2Proof
end

