-- ==== Sys2Proof/Machine/Fetch.lean ====
section
/-! DEFINITION. Which instruction the engine is executing: the FSM state gives the encoding space and the bytes
(44_control.md R220, R221). Bytes already read come from `tok`, from `ext` or from the state itself; bytes to come
stand in IN from `rp` on. The window reaches past the byte of the current micro-step, which is a reading device of
the model only: no micro-step's effect depends on a byte it has not read (30_encoding.md R102; DEDUCED, log entry 5). -/

namespace Sys2Proof.Machine

/-- The byte of the block `k` places after the read cursor. From IN_END on there is no byte of the block; zero stands
in its place in the window, and no micro-step uses it: one that would read there raises IN_OVERRUN first (R70). -/
def State.blockByte (s : State) (k : Nat) : Byte :=
  if s.rp.toNat + k < s.inEnd.toNat then s.readIn (s.rp.toNat + k) else 0

/-- The space and the three-byte window of the current instruction; none in IDLE, DONE and FAULT, and none while
`rst` is asserted. In LCOPY and MCOPY the current instruction is the token behaviour the record began with
(40_dispatch.md R126; log entry 6). -/
def fetchWindow (s : State) : Option (Space × Byte × Byte × Byte) :=
  match s.active with
  | .idle | .done | .fault => none
  | .token => some (.token, s.blockByte 0, s.blockByte 1, s.blockByte 2)
  | .lcopy | .mcopy => some (.token, s.tok, 0, 0)
  | .lext => some (.litExt, s.blockByte 0, s.blockByte 1, s.blockByte 2)
  | .lextB => some (.litExt, 0xFA, s.blockByte 0, s.blockByte 1)
  | .lextWL => some (.litExt, 0xF9, s.blockByte 0, s.blockByte 1)
  | .lextWH => some (.litExt, 0xF9, s.ext, s.blockByte 0)
  | .ofsLo => some (.ofs (tokO s.tok), s.blockByte 0, s.blockByte 1, s.blockByte 2)
  | .ofsHi => some (.ofs true, s.ext, s.blockByte 0, s.blockByte 1)
  | .mext => some (.matchExt, s.blockByte 0, s.blockByte 1, s.blockByte 2)
  | .mextB => some (.matchExt, 0xEF, s.blockByte 0, s.blockByte 1)
  | .mextWL => some (.matchExt, 0xEE, s.blockByte 0, s.blockByte 1)
  | .mextWH => some (.matchExt, 0xEE, s.ext, s.blockByte 0)

/-- The instruction whose micro-step the engine performs next; none where it performs no action (R220). -/
def fetch (s : State) : Option Instr :=
  match fetchWindow s with
  | none => none
  | some (sp, b0, b1, b2) => some (decodeAt sp b0 b1 b2)

/-- The FSM state in which the first byte of a space is read (10_state.md R25). -/
def firstState : Space → Fsm
  | .token => .token
  | .litExt => .lext
  | .ofs _ => .ofsLo
  | .matchExt => .mext

/-- Place three bytes in IN at the read cursor (a host load, 70_reset_and_hazards.md R283). -/
def placeWindow (s : State) (b0 b1 b2 : Byte) : State :=
  { s with inMem := ((s.inMem.write s.rp.toNat b0).write (s.rp.toNat + 1) b1).write (s.rp.toNat + 2) b2 }

/-- Make the engine execute, in its next micro-step, the instruction whose bytes are given: they are placed at the
read cursor, IN_END is moved past them if it is not already, `rst` is released, the FSM stands in the first state of
their space, and in the offset space `tok` holds the `O` bit that space depends on (log entries 10, 11, 27). -/
def placeInstr (s : State) (sp : Space) (b0 b1 b2 : Byte) : State :=
  let bound : Word := BitVec.ofNat 32 (min (s.rp.toNat + 3) (2 ^ 32 - 1))
  { placeWindow s b0 b1 b2 with
    st := firstState sp
    rst := false
    inEnd := if s.inEnd < bound then bound else s.inEnd
    tok := match sp with
      | .ofs wide => tokByte wide (tokL s.tok) (tokM s.tok)
      | _ => s.tok }

end Sys2Proof.Machine
end

