-- ==== Sys2Proof/Machine/Step.lean ====
section
/-! DEFINITION. One step of the engine is one micro-step (44_control.md R220; log entry 4). -/

namespace Sys2Proof.Machine

/-- The engine performs the micro-step of its current instruction; in IDLE, DONE and FAULT, and while
`rst` is asserted, it performs no action. -/
def step (s : State) : Host.Outcome State Fault Refusal :=
  match fetch s with
  | none => .next s
  | some i => exec i s

/-- `s` with the instruction of an opcode-table word placed where the next micro-step reads it (log entry 11). -/
def State.withFetchWord (s : State) (nbits w : Nat) : State :=
  let v := w % 2 ^ nbits
  placeInstr s (tableSpace nbits v) (tableByte v 0) (tableByte v 1) (tableByte v 2)

end Sys2Proof.Machine
end

