-- ==== Sys2Proof/Machine/Transition.lean ====
section
/-! DEFINITION. The transition function as 44_control.md R221 prints it: one row group per FSM state, on the byte
`b` at the read cursor. It says again, by FSM state and without instructions, what `step` says by instruction; the
two are stated equal in the obligations. While `rst` is asserted no row applies (70_reset_and_hazards.md R280). Its
rows write the state out instead of calling the meanings' operations. -/

namespace Sys2Proof.Machine

/-- The out-of-contract event the current micro-step raises, if any, in the order of 60_exceptions.md R256. -/
def pendingEvent (s : State) : Option Event :=
  let b := s.readIn s.rp.toNat
  match s.active with
  | .idle | .done | .fault => none
  | .mcopy =>
    if s.wp.toNat < s.org.toNat + s.dist.toNat then some .origin
    else if s.outEnd ≤ s.wp then some .outOverrun
    else none
  | .lcopy =>
    if s.inEnd ≤ s.rp then some .inOverrun
    else if s.outEnd ≤ s.wp then some .outOverrun
    else none
  | .lext =>
    if s.inEnd ≤ s.rp then some .inOverrun
    else if 251 ≤ b.toNat then some .rsvdLext
    else none
  | .mext =>
    if s.inEnd ≤ s.rp then some .inOverrun
    else if 240 ≤ b.toNat then some .rsvdMext
    else none
  | .token | .lextB | .lextWL | .lextWH | .ofsLo | .ofsHi | .mextB | .mextWL | .mextWH =>
    if s.inEnd ≤ s.rp then some .inOverrun else none

/-- The state the current micro-step commits when no event is pending: the rows of R221, an IN read advancing `rp`
and an OUT write advancing `wp`. -/
def commitRow (s : State) : State :=
  let b := s.readIn s.rp.toNat
  let r := { s with rp := s.rp + 1 }
  match s.active with
  | .idle | .done | .fault => s
  | .token =>
    let t := { r with tok := b, bid := bidOf b }
    if tokL b = 7 then { t with st := .lext }
    else if tokL b = 0 then { t with llen := 0, st := .ofsLo }
    else { t with llen := (tokL b).setWidth 16, st := .lcopy }
  | .lext =>
    if b.toNat ≤ 248 then { r with llen := 7 + b.setWidth 16, st := .lcopy }
    else if b.toNat = 249 then { r with st := .lextWL }
    else { r with st := .lextB }
  | .lextB => { r with llen := 256 + b.setWidth 16, st := .lcopy }
  | .lextWL => { r with ext := b, st := .lextWH }
  | .lextWH =>
    if le16 s.ext b = 0 then { r with llen := 0, st := .ofsLo } else { r with llen := le16 s.ext b, st := .lcopy }
  | .lcopy =>
    let w := { r with outMem := s.outMem.writeOut s.wp.toNat b, wp := s.wp + 1, llen := s.llen - 1 }
    if s.llen = 1 then { w with st := .ofsLo } else w
  | .ofsLo =>
    if tokO s.tok then { r with ext := b, st := .ofsHi }
    else if tokM s.tok = 15 then { r with dist := 256 - b.setWidth 17, st := .mext }
    else { r with dist := 256 - b.setWidth 17, mlen := (tokM s.tok).setWidth 16 + 3, st := .mcopy }
  | .ofsHi =>
    let d : BitVec 17 := 65536 - (le16 s.ext b).setWidth 17
    if tokM s.tok = 15 then { r with dist := d, st := .mext }
    else { r with dist := d, mlen := (tokM s.tok).setWidth 16 + 3, st := .mcopy }
  | .mext =>
    if b.toNat ≤ 237 then { r with mlen := 18 + b.setWidth 16, st := .mcopy }
    else if b.toNat = 238 then { r with st := .mextWL }
    else { r with st := .mextB }
  | .mextB => { r with mlen := 256 + b.setWidth 16, st := .mcopy }
  | .mextWL => { r with ext := b, st := .mextWH }
  | .mextWH =>
    if le16 s.ext b = 0 then { r with st := .done } else { r with mlen := le16 s.ext b, st := .mcopy }
  | .mcopy =>
    let c := s.readOut (s.wp.toNat - s.dist.toNat)
    let w := { s with outMem := s.outMem.writeOut s.wp.toNat c, wp := s.wp + 1, mlen := s.mlen - 1 }
    if s.mlen = 1 then { w with st := .token } else w

/-- One row of the transition function: raise the pending event, or commit. -/
def transition (s : State) : Host.Outcome State Fault Refusal :=
  match pendingEvent s with
  | none => .next (commitRow s)
  | some e =>
    if s.chk then .next { s with fcode := eventCode e, fstate := fsmCode s.st, st := .fault }
    else .fault (.unspecified e)

end Sys2Proof.Machine
end

