-- ==== Sys2Proof/Machine/Access.lean ====
section
/-! DEFINITION. The memory accesses a micro-step makes on the IN and OUT ports, in order (20_memory.md R66, R73,
R75, 43_match.md R205, 44_control.md R220). -/

namespace Sys2Proof.Machine

/-- One access of one byte (20_memory.md R66). -/
inductive Access where
  | inRead (a : Nat)
  | outRead (a : Nat)
  | outWrite (a : Nat)
  deriving DecidableEq, Repr

/-- The accesses of the current micro-step; none while `rst` is asserted (70_reset_and_hazards.md R280). A test that
raises comes before the access it guards (20_memory.md R70, R71); in the MCOPY ORIGIN row the OUT read is not made
(R221). -/
def accesses (s : State) : List Access :=
  match s.active, pendingEvent s with
  | .idle, _ | .done, _ | .fault, _ => []
  | .mcopy, none => [.outRead (s.wp.toNat - s.dist.toNat), .outWrite s.wp.toNat]
  | .mcopy, some .outOverrun => [.outRead (s.wp.toNat - s.dist.toNat)]
  | .mcopy, _ => []
  | .lcopy, none => [.inRead s.rp.toNat, .outWrite s.wp.toNat]
  | _, some .inOverrun => []
  | _, _ => [.inRead s.rp.toNat]

/-- An IN read. -/
def Access.isInRead : Access → Bool
  | .inRead _ => true
  | _ => false

/-- An OUT read. -/
def Access.isOutRead : Access → Bool
  | .outRead _ => true
  | _ => false

/-- An OUT write. -/
def Access.isOutWrite : Access → Bool
  | .outWrite _ => true
  | _ => false

end Sys2Proof.Machine
end

