-- ==== Sys2Proof/Machine/Block.lean ====
section
/-! DEFINITION. The compressed block above the single instruction: token records, their lengths and step counts, the
bytes they stand for, reading them back from a block, and the assembly notation (30_encoding.md R90, R95, R96, R101
to R105, 43_match.md R202, 44_control.md R229). Arithmetic here is exact (00_scope.md R8). -/

namespace Sys2Proof.Machine

/-! ### What an instruction contributes to its record -/

/-- The `O` bit of a token (30_encoding.md R91). -/
def tokenWide : Instr → Bool
  | .tokL0M o _ | .tokL1M o _ | .tokL2M o _ | .tokL3M o _ | .tokL4M o _ | .tokL5M o _ | .tokL6M o _ | .tokLXM o _
  | .tokL0MX o | .tokL1MX o | .tokL2MX o | .tokL3MX o | .tokL4MX o | .tokL5MX o | .tokL6MX o | .tokLXMX o => o
  | .ofs8 _ | .ofs16 _ _ | .lextShort _ | .lextWord _ _ | .lextByte _ | .lextRsvd _
  | .mextShort _ | .mextWord _ _ | .mextEod | .mextByte _ | .mextRsvd _ => false

/-- The literal length a token holds inline (41_literal.md R160). -/
def tokenLits : Instr → Option Nat
  | .tokL0M _ _ | .tokL0MX _ => some 0
  | .tokL1M _ _ | .tokL1MX _ => some 1
  | .tokL2M _ _ | .tokL2MX _ => some 2
  | .tokL3M _ _ | .tokL3MX _ => some 3
  | .tokL4M _ _ | .tokL4MX _ => some 4
  | .tokL5M _ _ | .tokL5MX _ => some 5
  | .tokL6M _ _ | .tokL6MX _ => some 6
  | .tokLXM _ _ | .tokLXMX _ | .ofs8 _ | .ofs16 _ _ | .lextShort _ | .lextWord _ _ | .lextByte _ | .lextRsvd _
  | .mextShort _ | .mextWord _ _ | .mextEod | .mextByte _ | .mextRsvd _ => none

/-- The match length a token holds inline, `MMMM + 3` (43_match.md R190). -/
def tokenMatch : Instr → Option Nat
  | .tokL0M _ m | .tokL1M _ m | .tokL2M _ m | .tokL3M _ m | .tokL4M _ m | .tokL5M _ m | .tokL6M _ m
  | .tokLXM _ m => some (m.toNat + 3)
  | .tokL0MX _ | .tokL1MX _ | .tokL2MX _ | .tokL3MX _ | .tokL4MX _ | .tokL5MX _ | .tokL6MX _ | .tokLXMX _
  | .ofs8 _ | .ofs16 _ _ | .lextShort _ | .lextWord _ _ | .lextByte _ | .lextRsvd _
  | .mextShort _ | .mextWord _ _ | .mextEod | .mextByte _ | .mextRsvd _ => none

/-- The literal length of an extension (41_literal.md R162, R164, R165); a reserved byte has none (R163). -/
def lextLits : Instr → Option Nat
  | .lextShort e => some (7 + e.toNat)
  | .lextByte f => some (256 + f.toNat)
  | .lextWord lo hi => some (lo.toNat + 256 * hi.toNat)
  | .tokL0M _ _ | .tokL1M _ _ | .tokL2M _ _ | .tokL3M _ _ | .tokL4M _ _ | .tokL5M _ _ | .tokL6M _ _ | .tokLXM _ _
  | .tokL0MX _ | .tokL1MX _ | .tokL2MX _ | .tokL3MX _ | .tokL4MX _ | .tokL5MX _ | .tokL6MX _ | .tokLXMX _
  | .ofs8 _ | .ofs16 _ _ | .lextRsvd _ | .mextShort _ | .mextWord _ _ | .mextEod | .mextByte _ | .mextRsvd _ => none

/-- The distance of an offset (42_offset.md R181, R183). -/
def ofsDist : Instr → Option Nat
  | .ofs8 lo => some (256 - lo.toNat)
  | .ofs16 lo hi => some (65536 - (lo.toNat + 256 * hi.toNat))
  | .tokL0M _ _ | .tokL1M _ _ | .tokL2M _ _ | .tokL3M _ _ | .tokL4M _ _ | .tokL5M _ _ | .tokL6M _ _ | .tokLXM _ _
  | .tokL0MX _ | .tokL1MX _ | .tokL2MX _ | .tokL3MX _ | .tokL4MX _ | .tokL5MX _ | .tokL6MX _ | .tokLXMX _
  | .lextShort _ | .lextWord _ _ | .lextByte _ | .lextRsvd _
  | .mextShort _ | .mextWord _ _ | .mextEod | .mextByte _ | .mextRsvd _ => none

/-- How a record ends: a match of a length, or the sentinel. -/
inductive MatchEnd where
  | copy (n : Nat)
  | eod
  deriving DecidableEq, Repr

/-- What a match extension says (43_match.md R192 to R194, R197); a reserved byte says nothing (R195). -/
def mextMatch : Instr → Option MatchEnd
  | .mextShort e => some (.copy (18 + e.toNat))
  | .mextByte f => some (.copy (256 + f.toNat))
  | .mextWord lo hi => some (.copy (lo.toNat + 256 * hi.toNat))
  | .mextEod => some .eod
  | .tokL0M _ _ | .tokL1M _ _ | .tokL2M _ _ | .tokL3M _ _ | .tokL4M _ _ | .tokL5M _ _ | .tokL6M _ _ | .tokLXM _ _
  | .tokL0MX _ | .tokL1MX _ | .tokL2MX _ | .tokL3MX _ | .tokL4MX _ | .tokL5MX _ | .tokL6MX _ | .tokLXMX _
  | .ofs8 _ | .ofs16 _ _ | .lextShort _ | .lextWord _ _ | .lextByte _ | .lextRsvd _ | .mextRsvd _ => none

/-! ### The token record (30_encoding.md R95) -/

/-- A token record: the token, a literal extension when `LLL = 7`, the literals, the offset, a match extension when
`MMMM = 15`. -/
structure Record where
  tok : Instr
  lext : Option Instr
  lits : List Byte
  ofs : Instr
  mext : Option Instr
  deriving DecidableEq, Repr

/-- The literal length the record's fields give. -/
def Record.llen (r : Record) : Option Nat :=
  match tokenLits r.tok, r.lext with
  | some n, none => some n
  | none, some x => lextLits x
  | _, _ => none

/-- How the record's fields say it ends. -/
def Record.ending (r : Record) : Option MatchEnd :=
  match tokenMatch r.tok, r.mext with
  | some n, none => some (.copy n)
  | none, some x => mextMatch x
  | _, _ => none

/-- The fields are of their spaces, agree with the token, and none is reserved. -/
def Record.wf (r : Record) : Bool :=
  r.tok.space == .token && r.tok.wf
    && r.lext.all (fun x => x.space == .litExt && x.wf) && r.llen == some r.lits.length
    && r.ofs.space == .ofs (tokenWide r.tok)
    && r.mext.all (fun x => x.space == .matchExt && x.wf) && r.ending.isSome

/-- The bytes of a record, with no padding (R95). -/
def Record.bytes (r : Record) : List Byte :=
  encode r.tok ++ (r.lext.map encode).getD [] ++ r.lits ++ encode r.ofs ++ (r.mext.map encode).getD []

/-- The number of extension bytes, `nLX` or `nMX` (R96). -/
def extBytes (x : Option Instr) : Nat := (x.map Instr.size).getD 0

/-- `1 + nLX + llen + (1 + O) + nMX` (R96). -/
def Record.length (r : Record) : Nat :=
  1 + extBytes r.lext + r.lits.length + (1 + (tokenWide r.tok).toNat) + extBytes r.mext

/-- The match bytes a record copies; none for the EOD record. -/
def Record.mlen (r : Record) : Nat :=
  match r.ending with
  | some (.copy n) => n
  | _ => 0

/-- The micro-steps of a record (44_control.md R229). -/
def Record.steps (r : Record) : Nat := r.length + r.mlen

/-- The EOD record (R101). -/
def Record.isEod (r : Record) : Bool := r.ending == some .eod

/-- Copy `n` match bytes at distance `d`, forward and one at a time, so that a byte may be copied again (43_match.md
R202). -/
def copyMatch (d : Nat) : Nat → List Byte → List Byte
  | 0, out => out
  | n + 1, out => copyMatch d n (out ++ [out.getD (out.length - d) 0])

/-- The output after a record, from the output before it; none if its match begins before the origin (R201). The EOD
record's distance is not used (42_offset.md R186). -/
def Record.expand (r : Record) (out : List Byte) : Option (List Byte) :=
  match r.ending, ofsDist r.ofs with
  | some (.copy n), some d =>
    if d ≤ (out ++ r.lits).length then some (copyMatch d n (out ++ r.lits)) else none
  | some .eod, some _ => some (out ++ r.lits)
  | _, _ => none

/-- The output after a list of records. -/
def expandAll : List Byte → List Record → Option (List Byte)
  | out, [] => some out
  | out, r :: rs => (r.expand out).bind fun out' => expandAll out' rs

/-! ### Reading records back (30_encoding.md R102) -/

/-- The instruction at the head, if it is whole. -/
def takeInstr (sp : Space) (bs : List Byte) : Option (Instr × List Byte) := (decode sp bs).toOption

/-- Read a token's literal extension, if it has one, and answer it with the literal length. -/
def takeLits (t : Instr) (bs : List Byte) : Option (Option Instr × Nat × List Byte) :=
  match tokenLits t with
  | some n => some (none, n, bs)
  | none => do
    let (x, rest) ← takeInstr .litExt bs
    let n ← lextLits x
    pure (some x, n, rest)

/-- Read a token's match extension, if it has one; a reserved byte is no extension. -/
def takeMatch (t : Instr) (bs : List Byte) : Option (Option Instr × List Byte) :=
  match tokenMatch t with
  | some _ => some (none, bs)
  | none => do
    let (x, rest) ← takeInstr .matchExt bs
    let _ ← mextMatch x
    pure (some x, rest)

/-- Read one record: the token, then each field whose presence and length the fields before it fix. -/
def takeRecord (bs : List Byte) : Option (Record × List Byte) := do
  let (t, bs1) ← takeInstr .token bs
  let (lx, n, bs2) ← takeLits t bs1
  if bs2.length < n then none
  else
    let (o, bs3) ← takeInstr (.ofs (tokenWide t)) (bs2.drop n)
    let (mx, rest) ← takeMatch t bs3
    pure (⟨t, lx, bs2.take n, o, mx⟩, rest)

/-- Read records up to and with the EOD record; nothing after it is read (R107). `fuel` bounds the records. -/
def takeBlock : Nat → List Byte → Option (List Record × List Byte)
  | 0, _ => none
  | fuel + 1, bs => do
    let (r, rest) ← takeRecord bs
    if r.isEod then pure ([r], rest)
    else
      let (rs, tail) ← takeBlock fuel rest
      pure (r :: rs, tail)

/-- The output a block stands for; none if the block is not well formed or a match begins before the origin. Every
record takes a byte at least, so the block's length is fuel enough. -/
def decompress (bs : List Byte) : Option (List Byte) := do
  let (rs, _) ← takeBlock bs.length bs
  expandAll [] rs

/-! ### The assembly notation (R103 to R105; the spec's own, log entry 21) -/

/-- The canonical literal field and extension for a length (R105). -/
def canonLits (k : Nat) : BitVec 3 × Option Instr :=
  if k ≤ 6 then (BitVec.ofNat 3 k, none)
  else if k ≤ 255 then (7, some (.lextShort (BitVec.ofNat 8 (k - 7))))
  else if k ≤ 511 then (7, some (.lextByte (BitVec.ofNat 8 (k - 256))))
  else (7, some (.lextWord (BitVec.ofNat 8 k) (BitVec.ofNat 8 (k / 256))))

/-- The canonical match field and extension for a length (R105). -/
def canonMatch (n : Nat) : BitVec 4 × Option Instr :=
  if 3 ≤ n ∧ n ≤ 17 then (BitVec.ofNat 4 (n - 3), none)
  else if 18 ≤ n ∧ n ≤ 255 then (15, some (.mextShort (BitVec.ofNat 8 (n - 18))))
  else if 256 ≤ n ∧ n ≤ 511 then (15, some (.mextByte (BitVec.ofNat 8 (n - 256))))
  else (15, some (.mextWord (BitVec.ofNat 8 n) (BitVec.ofNat 8 (n / 256))))

/-- `ofs8 d`: the byte `(256 - d) mod 256` (R103). -/
def asmOfs8 (d : Nat) : Instr := .ofs8 (BitVec.ofNat 8 (256 - d))

/-- `ofs16 d`: `(65536 - d) mod 65536`, low byte first (R103). -/
def asmOfs16 (d : Nat) : Instr := .ofs16 (BitVec.ofNat 8 (65536 - d)) (BitVec.ofNat 8 ((65536 - d) / 256))

/-- `seq LITS, d, n` (R104). -/
def seqRecord (lits : List Byte) (d n : Nat) : Record where
  tok := tokenInstr (decide (256 < d)) (canonLits lits.length).1 (canonMatch n).1
  lext := (canonLits lits.length).2
  lits := lits
  ofs := if d ≤ 256 then asmOfs8 d else asmOfs16 d
  mext := (canonMatch n).2

/-- `eod LITS` (R104). -/
def eodRecord (lits : List Byte) : Record where
  tok := tokenInstr false (canonLits lits.length).1 15
  lext := (canonLits lits.length).2
  lits := lits
  ofs := asmOfs8 256
  mext := some .mextEod

end Sys2Proof.Machine
end

