-- ==== Sys2Proof/Machine/Regs.lean ====
section
/-! DEFINITION. The register block as the host sees it: reads, writes, START and reset (10_state.md R21 to R35,
44_control.md R224, R225, 70_reset_and_hazards.md R280). -/

namespace Sys2Proof.Machine

/-- The thirteen registers of the block (10_state.md R21). -/
inductive Reg where
  | ctrl | status | inPtr | inEnd | outOrg | outPtr | outEnd | result | token | llen | mlen | dist | id
  deriving DecidableEq, Repr

/-- The register at a byte offset; none from 0x34 upward (R21, R35). -/
def regAt (off : Word) : Option Reg :=
  match off.toNat with
  | 0x00 => some .ctrl
  | 0x04 => some .status
  | 0x08 => some .inPtr
  | 0x0C => some .inEnd
  | 0x10 => some .outOrg
  | 0x14 => some .outPtr
  | 0x18 => some .outEnd
  | 0x1C => some .result
  | 0x20 => some .token
  | 0x24 => some .llen
  | 0x28 => some .mlen
  | 0x2C => some .dist
  | 0x30 => some .id
  | _ => none

/-- What a register reads (R22, R24, R26 to R34). -/
def readReg (s : State) : Reg → Word
  | .ctrl => ctrlWord s
  | .status => statusWord s
  | .inPtr => s.rp
  | .inEnd => s.inEnd
  | .outOrg => s.org
  | .outPtr => s.wp
  | .outEnd => s.outEnd
  | .result => resultWord s
  | .token => tokenWord s
  | .llen => s.llen.setWidth 32
  | .mlen => s.mlen.setWidth 32
  | .dist => s.dist.setWidth 32
  | .id => Config.idValue

/-- An accepted START with the written value `v` (44_control.md R224): mode and enable from the same write, the write
cursor at the origin, the datapath and the fault record cleared, `rp` kept. From here on a host read of OUT may
show a byte of before the run (20_memory.md R76, log entry 19). -/
def start (s : State) (v : Word) : State :=
  { s with
    chk := v.getLsbD 1
    ie := v.getLsbD 2
    wp := s.org
    tok := 0
    bid := 0
    ext := 0
    llen := 0
    mlen := 0
    dist := 0
    fcode := 0
    fstate := 0
    rp0 := s.rp
    stale := s.outMem :: s.stale
    st := .token }

/-- A write to CTRL: while BUSY only IE is taken; otherwise bit 0 starts a run, and without it CHK and IE are
written (R22, R23, R225). -/
def writeCtrl (s : State) (v : Word) : State :=
  if isBusy s then { s with ie := v.getLsbD 2 }
  else if v.getLsbD 0 then start s v
  else { s with chk := v.getLsbD 1, ie := v.getLsbD 2 }

/-- A write to a register that is writable when idle only (R21, R23). -/
def writeIdle (s t : State) : State := if isBusy s then s else t

/-- The thirteen registers in the order of their offsets (R21). -/
def Reg.all : List Reg :=
  [.ctrl, .status, .inPtr, .inEnd, .outOrg, .outPtr, .outEnd, .result, .token, .llen, .mlen, .dist, .id]

/-- A write to a register; read-only registers ignore it (R21 to R34). While `rst` is asserted every register keeps
its reset value, so every write is ignored (70_reset_and_hazards.md R280; DEDUCED, log entry 27). -/
def writeReg (s : State) (r : Reg) (v : Word) : State :=
  if s.rst then s
  else match r with
    | .ctrl => writeCtrl s v
    | .inPtr => writeIdle s { s with rp := truncAddr v }
    | .inEnd => writeIdle s { s with inEnd := truncAddr v }
    | .outOrg => writeIdle s { s with org := truncAddr v }
    | .outEnd => writeIdle s { s with outEnd := truncAddr v }
    | .status | .outPtr | .result | .token | .llen | .mlen | .dist | .id => s

/-- `rst` is asserted: every register takes its reset value, IN and OUT keep their bytes (70_reset_and_hazards.md
R280, R282), and what a host read may show is as before. -/
def resetAction (s : State) : State :=
  { State.reset with
    rst := true
    inMem := s.inMem
    outMem := s.outMem
    stale := s.stale
    hostReads := s.hostReads }

/-- `rst` is released: the registers hold what they held while it was asserted, so the engine waits in IDLE (R280). -/
def resetRelease (s : State) : State := { s with rst := false }

end Sys2Proof.Machine
end

