-- ==== Sys2Proof/Machine/HostPort.lean ====
section
/-! DEFINITION. What the host can do to the engine between two micro-steps (44_control.md R232,
70_reset_and_hazards.md R280 to R288): access the register block, place bytes in IN and OUT, read OUT, look at `irq`,
drive `rst`. The engine's `step` performs none of these; they are the environment (log entry 10). -/

namespace Sys2Proof.Machine

/-- The host's actions. `width` is in bytes. What the reading ones read is `hostReadReg`, `hostReadOut` and `irq`
of the state before the action. -/
inductive HostOp where
  | writeReg (width : Nat) (off v : Word)
  | readReg (width : Nat) (off : Word)
  | placeIn (a : Word) (v : Byte)
  | placeOut (a : Word) (v : Byte)
  | readOut (a : Word)
  | readIrq
  | setReset (level : Bool)
  deriving DecidableEq, Repr

/-- A REG access is 32 bits wide at a multiple of 4 (10_state.md R35). -/
def regAccessOk (width : Nat) (off : Word) : Bool := width == 4 && off.toNat % 4 == 0

/-- A host write to the REG space (R21, R35). -/
def hostWriteReg (s : State) (width : Nat) (off v : Word) : Host.Outcome State Fault Refusal :=
  if regAccessOk width off then
    match regAt off with
    | some r => .next (writeReg s r v)
    | none => .next s
  else .fault .regAccess

/-- What a host read of the REG space returns: the value, or the stop of an access the spec leaves unspecified.
While BUSY = 1 it is the value at the micro-step boundary where the read stands (60_exceptions.md R266). -/
def hostReadReg (s : State) (width : Nat) (off : Word) : Except Fault Word :=
  if regAccessOk width off then
    match regAt off with
    | some r => .ok (readReg s r)
    | none => .ok 0
  else .error .regAccess

/-- The host sees that the runs before are over: from here on its reads of OUT show every write of theirs
(20_memory.md R76, 70_reset_and_hazards.md R288). -/
def seeEnd (s : State) : State := { s with stale := [] }

/-- The state after a host read of the REG space: a read of STATUS that returns BUSY = 0 lets the host see the end
(R76); no other read changes anything. -/
def afterReadReg (s : State) (width : Nat) (off : Word) : Host.Outcome State Fault Refusal :=
  if regAccessOk width off then
    if regAt off = some .status && !isBusy s then .next (seeEnd s) else .next s
  else .fault .regAccess

/-- The host places a byte in IN. During a run `[rp0, in_end)` is forbidden (70_reset_and_hazards.md R285). -/
def hostPlaceIn (s : State) (a : Word) (v : Byte) : Host.Outcome State Fault Refusal :=
  if !inExists a.toNat then .fault .noSuchAddress
  else if isBusy s && decide (s.rp0 ≤ a) && decide (a < s.inEnd) then .fault .hostHazard
  else .next { s with inMem := s.inMem.write a.toNat v }

/-- The host places a byte in OUT, and its own later reads show it. During a run `[org, out_end)` is forbidden
(R285). -/
def hostPlaceOut (s : State) (a : Word) (v : Byte) : Host.Outcome State Fault Refusal :=
  if !outExists a.toNat then .fault .noSuchAddress
  else if isBusy s && decide (s.org ≤ a) && decide (a < s.outEnd) then .fault .hostHazard
  else .next { s.writeOut a.toNat v with stale := s.stale.map fun m => m.writeOut a.toNat v }

/-- The OUT memory a host read shows: the newest, or, until the host has seen the end of the run, the one of before
the run (20_memory.md R76, 70_reset_and_hazards.md R286). Which one is a free value
(93_implementation_defined.md U15, log entry 19). -/
def shownOut (s : State) : Mem := (s.outMem :: s.stale).getD (Config.readSel s.hostReads) s.outMem

/-- What a host read of a byte of OUT returns (R76, R286). -/
def hostReadOut (s : State) (a : Word) : Except Fault Byte :=
  if outExists a.toNat then .ok (State.readOut { s with outMem := shownOut s } a.toNat) else .error .noSuchAddress

/-- The state after a host read of OUT: the next read's choice is a fresh one. -/
def afterReadOut (s : State) (a : Word) : Host.Outcome State Fault Refusal :=
  if outExists a.toNat then .next { s with hostReads := s.hostReads + 1 } else .fault .noSuchAddress

/-- The state after the host looks at `irq`: an asserted `irq` lets it see the end of the run (R288). -/
def afterReadIrq (s : State) : State := if irq s then seeEnd s else s

/-- One action of the host. -/
def hostStep (op : HostOp) (s : State) : Host.Outcome State Fault Refusal :=
  match op with
  | .writeReg width off v => hostWriteReg s width off v
  | .readReg width off => afterReadReg s width off
  | .placeIn a v => hostPlaceIn s a v
  | .placeOut a v => hostPlaceOut s a v
  | .readOut a => afterReadOut s a
  | .readIrq => .next (afterReadIrq s)
  | .setReset level => .next (if level then resetAction s else resetRelease s)

/-- The host's sequence for one run: configure, then CTRL with START and the mode bits (70_reset_and_hazards.md R283,
steps 4 and 6), every access 32 bits wide. -/
def programRun (s : State) (inPtr inEnd outOrg outEnd ctrl : Word) : State :=
  let s1 := writeReg s .inPtr inPtr
  let s2 := writeReg s1 .inEnd inEnd
  let s3 := writeReg s2 .outOrg outOrg
  let s4 := writeReg s3 .outEnd outEnd
  writeReg s4 .ctrl ctrl

end Sys2Proof.Machine
end

