-- ==== Sys2Proof/Safety.lean ====
section
/-! DEFINITION. The terms the claims use: runs, their end and observation (44_control.md R231), what one step keeps
(the invariant), and a block standing in IN. -/

namespace Sys2Proof.Machine

/-- `k` micro-steps from a state. -/
abbrev run (k : Nat) (s : State) : Host.Outcome State Fault Refusal := Host.Core.run Sys2Proof.core k s

/-- The engine's part of "over": DONE or FAULT (R231). -/
def State.over (s : State) : Bool := isDone s || isFault s

/-- A micro-step sequence has ended: the state is over, or the last micro-step raised `Unspecified` (R231). -/
def isOver : Host.Outcome State Fault Refusal → Bool
  | .next t => t.over
  | .fault (.unspecified _) => true
  | _ => false

/-- The output bytes `[org, wp)` (R231). -/
def State.produced (s : State) : List Byte :=
  (List.range (s.wp.toNat - s.org.toNat)).map fun k => s.readOut (s.org.toNat + k)

/-- The end kinds of a run (R231). -/
inductive EndKind where
  | done
  | fault (fcode fstate : BitVec 4)
  | unspecified (e : Event)
  deriving DecidableEq, Repr

/-- The observation of a run that is over (R231): how it ended, RESULT, `rp`, the OUT bytes `[org, wp)`, and the
register values of 10_state.md, the readable ones in the order of their offsets and then the hidden `ext` (R46). -/
structure Observation where
  kind : EndKind
  result : Word
  rp : Word
  out : List Byte
  regs : List Word
  ext : Byte
  deriving DecidableEq, Repr

/-- What is observed in a state, besides how the run ended. -/
def observeAs (kind : EndKind) (s : State) : Observation :=
  ⟨kind, resultWord s, s.rp, s.produced, Reg.all.map (readReg s), s.ext⟩

/-- The observation of a state in which the run is over; none in the other states. -/
def observe (s : State) : Option Observation :=
  match s.st with
  | .done => some (observeAs .done s)
  | .fault => some (observeAs (.fault s.fcode s.fstate) s)
  | _ => none

/-- The observation of a run of at most `k` micro-steps. When a micro-step raises `Unspecified`, what is observed is
the state before it, which is well defined (60_exceptions.md R252); it is no final state of the engine. -/
def observeRun : Nat → State → Option Observation
  | 0, s => observe s
  | k + 1, s =>
    match step s with
    | .next t => observeRun k t
    | .fault (.unspecified e) => some (observeAs (.unspecified e) s)
    | _ => none

/-- The bytes of a list stand in IN from an address on. -/
def State.holds (s : State) (a : Nat) (bs : List Byte) : Prop :=
  ∀ k (h : k < bs.length), s.readIn (a + k) = bs[k]

/-- What every micro-step and every host action keeps. -/
structure State.Inv (s : State) : Prop where
  /-- memories are in canonical form and hold existing addresses only (20_memory.md R61, R62) -/
  inMem_wf : s.inMem.wf = true
  inMem_below : s.inMem.below Config.inSize = true
  outMem_wf : s.outMem.wf = true
  outMem_below : s.outMem.below Config.outSize = true
  stale_wf : ∀ m ∈ s.stale, m.wf = true ∧ m.below Config.outSize = true
  /-- cursors and bounds have `ADDR_W` bits (10_state.md R26 to R30) -/
  rp_fits : s.rp.toNat < 2 ^ Config.addrW
  inEnd_fits : s.inEnd.toNat < 2 ^ Config.addrW
  org_fits : s.org.toNat < 2 ^ Config.addrW
  wp_fits : s.wp.toNat < 2 ^ Config.addrW
  outEnd_fits : s.outEnd.toNat < 2 ^ Config.addrW
  /-- while `rst` is asserted every register holds its reset value (70_reset_and_hazards.md R280) -/
  rst_held : s.rst = true → resetAction s = s
  /-- the behaviour number is the token's (40_dispatch.md R123) -/
  bid_eq : s.bid = bidOf s.tok
  /-- the fault record is set in FAULT only, with a code and a state that exist (10_state.md R24, 60 R253) -/
  no_fault_record : s.st ≠ .fault → s.fcode = 0 ∧ s.fstate = 0
  fault_record : s.st = .fault → 1 ≤ s.fcode.toNat ∧ s.fcode.toNat ≤ 5 ∧ 1 ≤ s.fstate.toNat ∧ s.fstate.toNat ≤ 13
  /-- each state of a record is reached only through its token's fields (44_control.md R221) -/
  literal_ext : s.st ∈ [Fsm.lext, .lextB, .lextWL, .lextWH] → tokL s.tok = 7
  wide_offset : s.st = .ofsHi → tokO s.tok = true
  match_ext : s.st ∈ [Fsm.mext, .mextB, .mextWL, .mextWH] → tokM s.tok = 15
  /-- LCOPY and MCOPY are entered with something to copy, and with a distance (R222) -/
  literal_pending : s.st = .lcopy → s.llen ≠ 0
  match_pending : s.st = .mcopy → s.mlen ≠ 0
  distance : s.st ∈ [Fsm.mext, .mextB, .mextWL, .mextWH, .mcopy] → 1 ≤ s.dist.toNat ∧ s.dist.toNat ≤ 65536
  /-- the write cursor is at or after the origin during a run (10_state.md R37) -/
  origin : isBusy s = true → s.org.toNat ≤ s.wp.toNat

end Sys2Proof.Machine
end

