-- ==== Sys2Proof/Certificates/Slice0/Obligations.lean ====
section
/-! DEFINITION. The statements for the provers, from the spec's numbered rules. -/

open Sys2Proof Sys2Proof.Machine

/-- The encoding tables of the token, the two extensions and the offset lose no operand bit (30_encoding.md R91, R93, R94, R97). -/
def Obligations.DecodeInvertsEncode : Prop :=
  ∀ i : Instr, i.wf = true → ∀ rest : List Byte, decode i.space (encode i ++ rest) = .ok (i, rest)

/-- Every word has one reading in its space (30_encoding.md R92, R93, R94, R97, R102). -/
def Obligations.EncodeInvertsDecode : Prop :=
  ∀ (sp : Space) (bs rest : List Byte) (i : Instr), decode sp bs = .ok (i, rest) →
    i.wf = true ∧ i.space = sp ∧ encode i ++ rest = bs

/-- A sanity check of the bit positions: the token is `O LLL MMMM` from bit 7 down, the byte read first is the low byte. -/
def Obligations.SpecWordsDecodeRight : Prop :=
  decode .token [0b00110101#8] = .ok (.tokL3M false 5, []) ∧
  decode .token [0b10101111#8] = .ok (.tokL2MX true, []) ∧
  decode .token [0b11110000#8] = .ok (.tokLXM true 0, []) ∧
  decode .token [0b01111111#8] = .ok (.tokLXMX false, []) ∧
  decode (.ofs false) [0b01110000#8] = .ok (.ofs8 0x70, []) ∧
  decode (.ofs true) [0b11111110#8, 0b10000000#8] = .ok (.ofs16 0xFE 0x80, []) ∧
  decode .litExt [0b11111000#8] = .ok (.lextShort 248, []) ∧
  decode .litExt [0b11111001#8, 0b00110100#8, 0b00010010#8] = .ok (.lextWord 0x34 0x12, []) ∧
  decode .litExt [0b11111010#8, 0b00000101#8] = .ok (.lextByte 5, []) ∧
  decode .litExt [0b11111011#8] = .ok (.lextRsvd 251, []) ∧
  decode .matchExt [0b11101101#8] = .ok (.mextShort 237, []) ∧
  decode .matchExt [0b11101110#8, 0b00000101#8, 0b00000000#8] = .ok (.mextWord 5 0, []) ∧
  decode .matchExt [0b11101110#8, 0b00000000#8, 0b00000000#8] = .ok (.mextEod, []) ∧
  decode .matchExt [0b11101111#8, 0b00000000#8] = .ok (.mextByte 0, []) ∧
  decode .matchExt [0b11110000#8] = .ok (.mextRsvd 240, [])

/-- The table of 40_dispatch.md R123, row by row. -/
def Obligations.TokenBytesSelectBehaviours : Prop :=
  (∀ t : Byte, (bidOf t).toNat = 2 * (tokL t).toNat + (if tokM t = 15 then 1 else 0)) ∧
  (∀ t : Byte, bidOf t = tokL t ++ BitVec.ofBool (tokM t == 15)) ∧
  (∀ t : Byte, tokByte (tokO t) (tokL t) (tokM t) = t) ∧
  (∀ (o : Bool) (m : BitVec 4), m ≠ 15 →
    decode .token [tokByte o 0 m] = .ok (.tokL0M o m, []) ∧ bidOf (tokByte o 0 m) = 0) ∧
  (∀ o : Bool, decode .token [tokByte o 0 15] = .ok (.tokL0MX o, []) ∧ bidOf (tokByte o 0 15) = 1) ∧
  (∀ (o : Bool) (m : BitVec 4), m ≠ 15 →
    decode .token [tokByte o 1 m] = .ok (.tokL1M o m, []) ∧ bidOf (tokByte o 1 m) = 2) ∧
  (∀ o : Bool, decode .token [tokByte o 1 15] = .ok (.tokL1MX o, []) ∧ bidOf (tokByte o 1 15) = 3) ∧
  (∀ (o : Bool) (m : BitVec 4), m ≠ 15 →
    decode .token [tokByte o 2 m] = .ok (.tokL2M o m, []) ∧ bidOf (tokByte o 2 m) = 4) ∧
  (∀ o : Bool, decode .token [tokByte o 2 15] = .ok (.tokL2MX o, []) ∧ bidOf (tokByte o 2 15) = 5) ∧
  (∀ (o : Bool) (m : BitVec 4), m ≠ 15 →
    decode .token [tokByte o 3 m] = .ok (.tokL3M o m, []) ∧ bidOf (tokByte o 3 m) = 6) ∧
  (∀ o : Bool, decode .token [tokByte o 3 15] = .ok (.tokL3MX o, []) ∧ bidOf (tokByte o 3 15) = 7) ∧
  (∀ (o : Bool) (m : BitVec 4), m ≠ 15 →
    decode .token [tokByte o 4 m] = .ok (.tokL4M o m, []) ∧ bidOf (tokByte o 4 m) = 8) ∧
  (∀ o : Bool, decode .token [tokByte o 4 15] = .ok (.tokL4MX o, []) ∧ bidOf (tokByte o 4 15) = 9) ∧
  (∀ (o : Bool) (m : BitVec 4), m ≠ 15 →
    decode .token [tokByte o 5 m] = .ok (.tokL5M o m, []) ∧ bidOf (tokByte o 5 m) = 10) ∧
  (∀ o : Bool, decode .token [tokByte o 5 15] = .ok (.tokL5MX o, []) ∧ bidOf (tokByte o 5 15) = 11) ∧
  (∀ (o : Bool) (m : BitVec 4), m ≠ 15 →
    decode .token [tokByte o 6 m] = .ok (.tokL6M o m, []) ∧ bidOf (tokByte o 6 m) = 12) ∧
  (∀ o : Bool, decode .token [tokByte o 6 15] = .ok (.tokL6MX o, []) ∧ bidOf (tokByte o 6 15) = 13) ∧
  (∀ (o : Bool) (m : BitVec 4), m ≠ 15 →
    decode .token [tokByte o 7 m] = .ok (.tokLXM o m, []) ∧ bidOf (tokByte o 7 m) = 14) ∧
  (∀ o : Bool, decode .token [tokByte o 7 15] = .ok (.tokLXMX o, []) ∧ bidOf (tokByte o 7 15) = 15)

/-- How a run reaches the meanings of the instructions (44_control.md R220, R221). MODEL'S CHOICE, not the spec's: the three-byte window with zero from in_end on (log entry 5), the token kept in `tok` as the instruction of LCOPY and MCOPY (log entry 6), one step per micro-step of an instruction (log entry 4). While `rst` is asserted there is no micro-step (70_reset_and_hazards.md R280). -/
def Obligations.StepRunsDecodedInstruction : Prop :=
  (∀ s : State, s.rst = false →
    (∀ (i : Instr) (rest : List Byte), s.st = .token →
      decode .token [s.blockByte 0, s.blockByte 1, s.blockByte 2] = .ok (i, rest) → step s = exec i s) ∧
    (∀ (i : Instr) (rest : List Byte), s.st = .lext →
      decode .litExt [s.blockByte 0, s.blockByte 1, s.blockByte 2] = .ok (i, rest) → step s = exec i s) ∧
    (∀ (i : Instr) (rest : List Byte), s.st = .ofsLo →
      decode (.ofs (tokO s.tok)) [s.blockByte 0, s.blockByte 1, s.blockByte 2] = .ok (i, rest) → step s = exec i s) ∧
    (∀ (i : Instr) (rest : List Byte), s.st = .mext →
      decode .matchExt [s.blockByte 0, s.blockByte 1, s.blockByte 2] = .ok (i, rest) → step s = exec i s) ∧
    (s.st = .lextB → step s = exec (.lextByte (s.blockByte 0)) s) ∧
    (s.st = .lextWL → step s = exec (.lextWord (s.blockByte 0) (s.blockByte 1)) s) ∧
    (s.st = .lextWH → step s = exec (.lextWord s.ext (s.blockByte 0)) s) ∧
    (s.st = .ofsHi → step s = exec (.ofs16 s.ext (s.blockByte 0)) s) ∧
    (s.st = .mextB → step s = exec (.mextByte (s.blockByte 0)) s) ∧
    (∀ (i : Instr) (rest : List Byte), s.st = .mextWL →
      decode .matchExt [0xEE, s.blockByte 0, s.blockByte 1] = .ok (i, rest) → step s = exec i s) ∧
    (∀ (i : Instr) (rest : List Byte), s.st = .mextWH →
      decode .matchExt [0xEE, s.ext, s.blockByte 0] = .ok (i, rest) → step s = exec i s) ∧
    (∀ (i : Instr) (rest : List Byte), s.st = .lcopy ∨ s.st = .mcopy →
      decode .token [s.tok] = .ok (i, rest) → step s = exec i s)) ∧
  (∀ s : State, s.st = .idle ∨ s.st = .done ∨ s.st = .fault ∨ s.rst = true → step s = .next s) ∧
  (∀ (sp : Space) (b0 b1 b2 : Byte), ∃ (i : Instr) (rest : List Byte), decode sp [b0, b1, b2] = .ok (i, rest))

/-- The first micro-step of the behaviours of 40_dispatch.md R127 to R140 (R120, 41_literal.md R160, R167). -/
def Obligations.InlineTokensRead : Prop :=
  ∀ s : State, s.st = .token → s.rp < s.inEnd →
    (∀ (o : Bool) (m : BitVec 4), exec (.tokL0M o m) s = .next
      { s with rp := s.rp + 1, tok := tokByte o 0 m, bid := 0, llen := 0, st := .ofsLo }) ∧
    (∀ o : Bool, exec (.tokL0MX o) s = .next
      { s with rp := s.rp + 1, tok := tokByte o 0 15, bid := 1, llen := 0, st := .ofsLo }) ∧
    (∀ (o : Bool) (m : BitVec 4), exec (.tokL1M o m) s = .next
      { s with rp := s.rp + 1, tok := tokByte o 1 m, bid := 2, llen := 1, st := .lcopy }) ∧
    (∀ o : Bool, exec (.tokL1MX o) s = .next
      { s with rp := s.rp + 1, tok := tokByte o 1 15, bid := 3, llen := 1, st := .lcopy }) ∧
    (∀ (o : Bool) (m : BitVec 4), exec (.tokL2M o m) s = .next
      { s with rp := s.rp + 1, tok := tokByte o 2 m, bid := 4, llen := 2, st := .lcopy }) ∧
    (∀ o : Bool, exec (.tokL2MX o) s = .next
      { s with rp := s.rp + 1, tok := tokByte o 2 15, bid := 5, llen := 2, st := .lcopy }) ∧
    (∀ (o : Bool) (m : BitVec 4), exec (.tokL3M o m) s = .next
      { s with rp := s.rp + 1, tok := tokByte o 3 m, bid := 6, llen := 3, st := .lcopy }) ∧
    (∀ o : Bool, exec (.tokL3MX o) s = .next
      { s with rp := s.rp + 1, tok := tokByte o 3 15, bid := 7, llen := 3, st := .lcopy }) ∧
    (∀ (o : Bool) (m : BitVec 4), exec (.tokL4M o m) s = .next
      { s with rp := s.rp + 1, tok := tokByte o 4 m, bid := 8, llen := 4, st := .lcopy }) ∧
    (∀ o : Bool, exec (.tokL4MX o) s = .next
      { s with rp := s.rp + 1, tok := tokByte o 4 15, bid := 9, llen := 4, st := .lcopy }) ∧
    (∀ (o : Bool) (m : BitVec 4), exec (.tokL5M o m) s = .next
      { s with rp := s.rp + 1, tok := tokByte o 5 m, bid := 10, llen := 5, st := .lcopy }) ∧
    (∀ o : Bool, exec (.tokL5MX o) s = .next
      { s with rp := s.rp + 1, tok := tokByte o 5 15, bid := 11, llen := 5, st := .lcopy }) ∧
    (∀ (o : Bool) (m : BitVec 4), exec (.tokL6M o m) s = .next
      { s with rp := s.rp + 1, tok := tokByte o 6 m, bid := 12, llen := 6, st := .lcopy }) ∧
    (∀ o : Bool, exec (.tokL6MX o) s = .next
      { s with rp := s.rp + 1, tok := tokByte o 6 15, bid := 13, llen := 6, st := .lcopy })

/-- The first micro-step of the behaviours of 40_dispatch.md R141 and R142. -/
def Obligations.ExtendedTokensRead : Prop :=
  ∀ s : State, s.st = .token → s.rp < s.inEnd →
    (∀ (o : Bool) (m : BitVec 4), exec (.tokLXM o m) s = .next
      { s with rp := s.rp + 1, tok := tokByte o 7 m, bid := 14, st := .lext }) ∧
    (∀ o : Bool, exec (.tokLXMX o) s = .next
      { s with rp := s.rp + 1, tok := tokByte o 7 15, bid := 15, st := .lext })

/-- 40_dispatch.md R120; with `rst` released, for while it is asserted there is no micro-step (70_reset_and_hazards.md R280). -/
def Obligations.TokenStateReadsAndRoutes : Prop :=
  (∀ s : State, s.rst = false → s.st = .token → s.rp < s.inEnd →
    (tokL (s.readIn s.rp.toNat) = 7 → step s = .next
      { s with rp := s.rp + 1, tok := s.readIn s.rp.toNat, bid := bidOf (s.readIn s.rp.toNat), st := .lext }) ∧
    (tokL (s.readIn s.rp.toNat) ≠ 7 → step s = .next
      { s with
        rp := s.rp + 1
        tok := s.readIn s.rp.toNat
        bid := bidOf (s.readIn s.rp.toNat)
        llen := BitVec.ofNat 16 (tokL (s.readIn s.rp.toNat)).toNat
        st := if 0 < (tokL (s.readIn s.rp.toNat)).toNat then .lcopy else .ofsLo })) ∧
  (∀ s : State, s.rst = false → s.st = .token → s.inEnd ≤ s.rp → step s = raise s .token .inOverrun) ∧
  (∀ s t : State, step s = .next t → s.st ≠ .token → t.tok = s.tok ∧ t.bid = s.bid) ∧
  (∀ (s : State) (v : Word), s.rst = false → isBusy s = false → v.getLsbD 0 = true →
    (writeReg s .ctrl v).st = .token) ∧
  (∀ s t : State, s.rst = false → step s = .next t → t.st = .token → s.st = .mcopy ∧ s.mlen = 1)

/-- 41_literal.md R161, R162, R164, R165, R167. -/
def Obligations.LiteralExtensionsResolve : Prop :=
  ∀ s : State, s.rp < s.inEnd →
    (∀ e : Byte, e.toNat ≤ 248 → s.st = .lext → exec (.lextShort e) s = .next
      { s with rp := s.rp + 1, llen := BitVec.ofNat 16 (7 + e.toNat), st := .lcopy }) ∧
    (∀ f : Byte, s.st = .lext → exec (.lextByte f) s = .next { s with rp := s.rp + 1, st := .lextB }) ∧
    (∀ f : Byte, s.st = .lextB → exec (.lextByte f) s = .next
      { s with rp := s.rp + 1, llen := BitVec.ofNat 16 (256 + f.toNat), st := .lcopy }) ∧
    (∀ lo hi : Byte, s.st = .lext → exec (.lextWord lo hi) s = .next { s with rp := s.rp + 1, st := .lextWL }) ∧
    (∀ lo hi : Byte, s.st = .lextWL → exec (.lextWord lo hi) s = .next
      { s with rp := s.rp + 1, ext := lo, st := .lextWH }) ∧
    (∀ lo hi : Byte, s.st = .lextWH → exec (.lextWord lo hi) s = .next
      { s with
        rp := s.rp + 1
        llen := BitVec.ofNat 16 (s.ext.toNat + 256 * hi.toNat)
        st := if 0 < s.ext.toNat + 256 * hi.toNat then .lcopy else .ofsLo })

/-- 41_literal.md R163 and the fault entry of 60_exceptions.md R254. -/
def Obligations.ReservedLiteralExtensionRaises : Prop :=
  ∀ s : State, s.st = .lext → s.rp < s.inEnd →
    (∀ e : Byte, s.chk = true → exec (.lextRsvd e) s = .next
      { s with fcode := 4, fstate := 2, st := .fault }) ∧
    (∀ e : Byte, s.chk = false → exec (.lextRsvd e) s = .fault (.unspecified .rsvdLext)) ∧
    (s.rst = false → 251 ≤ (s.readIn s.rp.toNat).toNat → step s = exec (.lextRsvd (s.readIn s.rp.toNat)) s)

/-- 41_literal.md R168. MODEL'S CHOICE, not the spec's: that every token behaviour has this effect in LCOPY (log entries 4, 6); TOK_L0_M and TOK_L0_MX never stand in LCOPY in a run (40_dispatch.md R127, R128). The byte is read back where OUT has the address (20_memory.md R62; log entry 26). -/
def Obligations.TokensCopyOneLiteral : Prop :=
  ∀ (i : Instr) (s : State), i.space = .token → s.st = .lcopy → s.llen ≠ 0 → s.rp < s.inEnd → s.wp < s.outEnd →
    ∃ t : State, exec i s = .next t ∧
      t = { s with
        rp := s.rp + 1
        wp := s.wp + 1
        llen := s.llen - 1
        st := if s.llen = 1 then .ofsLo else .lcopy
        outMem := t.outMem } ∧
      (s.wp.toNat < Config.outSize → t.readOut s.wp.toNat = s.readIn s.rp.toNat) ∧
      ∀ a : Nat, a ≠ s.wp.toNat → t.readOut a = s.readOut a

/-- 41_literal.md R169; the increasing address order is what the statement says after every k. OUT has the addresses below OUT_SIZE (20_memory.md R62). -/
def Obligations.LiteralRunCopiesForward : Prop :=
  ∀ (s : State) (k : Nat), s.rst = false → s.st = .lcopy → s.llen ≠ 0 → k ≤ s.llen.toNat →
    s.rp.toNat + s.llen.toNat ≤ s.inEnd.toNat → s.wp.toNat + s.llen.toNat ≤ s.outEnd.toNat →
    ∃ t : State, run k s = .next t ∧
      t = { s with rp := t.rp, wp := t.wp, llen := t.llen, st := t.st, outMem := t.outMem } ∧
      t.rp.toNat = s.rp.toNat + k ∧ t.wp.toNat = s.wp.toNat + k ∧ t.llen.toNat = s.llen.toNat - k ∧
      t.st = (if k = s.llen.toNat then .ofsLo else .lcopy) ∧
      (∀ i : Nat, i < k → s.wp.toNat + i < Config.outSize → t.readOut (s.wp.toNat + i) = s.readIn (s.rp.toNat + i)) ∧
      (∀ a : Nat, a < s.wp.toNat ∨ s.wp.toNat + k ≤ a → t.readOut a = s.readOut a)

/-- 41_literal.md R170. -/
def Obligations.ZeroLiteralLengthCopiesNothing : Prop :=
  (∀ s : State, s.rst = false → s.st = .token → s.rp < s.inEnd → tokL (s.readIn s.rp.toNat) = 0 →
    ∃ t : State, step s = .next t ∧ t.st = .ofsLo ∧ t.llen = 0 ∧ t.rp = s.rp + 1 ∧ t.wp = s.wp ∧
      t.outMem = s.outMem) ∧
  (∀ s : State, s.rst = false → s.st = .lextWH → s.rp < s.inEnd → s.ext = 0 → s.readIn s.rp.toNat = 0 →
    ∃ t : State, step s = .next t ∧ t.st = .ofsLo ∧ t.llen = 0 ∧ t.rp = s.rp + 1 ∧ t.wp = s.wp ∧
      t.outMem = s.outMem)

/-- 42_offset.md R181, with the routing of R185. -/
def Obligations.OneByteOffsetResolves : Prop :=
  (∀ (s : State) (lo : Byte), s.st = .ofsLo → s.rp < s.inEnd →
    (tokM s.tok = 15 → exec (.ofs8 lo) s = .next
      { s with rp := s.rp + 1, dist := BitVec.ofNat 17 (256 - lo.toNat), st := .mext }) ∧
    (tokM s.tok ≠ 15 → exec (.ofs8 lo) s = .next
      { s with
        rp := s.rp + 1
        dist := BitVec.ofNat 17 (256 - lo.toNat)
        mlen := BitVec.ofNat 16 ((tokM s.tok).toNat + 3)
        st := .mcopy })) ∧
  (∀ s : State, s.rst = false → s.st = .ofsLo → tokO s.tok = false → step s = exec (.ofs8 (s.readIn s.rp.toNat)) s) ∧
  (∀ lo : Byte, (BitVec.ofNat 17 (256 - lo.toNat)).toNat = 256 - lo.toNat ∧ 1 ≤ 256 - lo.toNat ∧
    256 - lo.toNat ≤ 256 ∧ (0xFF#8 ++ lo).toInt = -((256 - lo.toNat : Nat) : Int))

/-- 42_offset.md R180, R182, R183, R185; no value is read as positive (90_conflicts.md C2). -/
def Obligations.TwoByteOffsetResolves : Prop :=
  (∀ (s : State) (lo hi : Byte), s.rp < s.inEnd →
    (s.st = .ofsLo → exec (.ofs16 lo hi) s = .next { s with rp := s.rp + 1, ext := lo, st := .ofsHi }) ∧
    (s.st = .ofsHi → tokM s.tok = 15 → exec (.ofs16 lo hi) s = .next
      { s with
        rp := s.rp + 1
        dist := BitVec.ofNat 17 (65536 - (s.ext.toNat + 256 * hi.toNat))
        st := .mext }) ∧
    (s.st = .ofsHi → tokM s.tok ≠ 15 → exec (.ofs16 lo hi) s = .next
      { s with
        rp := s.rp + 1
        dist := BitVec.ofNat 17 (65536 - (s.ext.toNat + 256 * hi.toNat))
        mlen := BitVec.ofNat 16 ((tokM s.tok).toNat + 3)
        st := .mcopy })) ∧
  (∀ s : State, s.rst = false → s.st = .ofsLo → tokO s.tok = true →
    step s = exec (.ofs16 (s.readIn s.rp.toNat) (s.blockByte 1)) s) ∧
  (∀ lo hi : Byte, (BitVec.ofNat 17 (65536 - (lo.toNat + 256 * hi.toNat))).toNat
      = 65536 - (lo.toNat + 256 * hi.toNat) ∧
    1 ≤ 65536 - (lo.toNat + 256 * hi.toNat) ∧ 65536 - (lo.toNat + 256 * hi.toNat) ≤ 65536)

/-- 42_offset.md R184 as a property of every step. -/
def Obligations.ChangedDistanceIsInRange : Prop :=
  ∀ s t : State, step s = .next t →
    (t.dist = s.dist ∨ (1 ≤ t.dist.toNat ∧ t.dist.toNat ≤ 65536)) ∧
    (s.st ≠ .ofsLo → s.st ≠ .ofsHi → t.dist = s.dist)

/-- 43_match.md R191 to R194. -/
def Obligations.MatchExtensionsResolve : Prop :=
  ∀ s : State, s.rp < s.inEnd →
    (∀ e : Byte, e.toNat ≤ 237 → s.st = .mext → exec (.mextShort e) s = .next
      { s with rp := s.rp + 1, mlen := BitVec.ofNat 16 (18 + e.toNat), st := .mcopy }) ∧
    (∀ f : Byte, s.st = .mext → exec (.mextByte f) s = .next { s with rp := s.rp + 1, st := .mextB }) ∧
    (∀ f : Byte, s.st = .mextB → exec (.mextByte f) s = .next
      { s with rp := s.rp + 1, mlen := BitVec.ofNat 16 (256 + f.toNat), st := .mcopy }) ∧
    (∀ lo hi : Byte, s.st = .mext → exec (.mextWord lo hi) s = .next { s with rp := s.rp + 1, st := .mextWL }) ∧
    (∀ lo hi : Byte, s.st = .mextWL → exec (.mextWord lo hi) s = .next
      { s with rp := s.rp + 1, ext := lo, st := .mextWH }) ∧
    (∀ lo hi : Byte, s.st = .mextWH → 0 < s.ext.toNat + 256 * hi.toNat → exec (.mextWord lo hi) s = .next
      { s with
        rp := s.rp + 1
        mlen := BitVec.ofNat 16 (s.ext.toNat + 256 * hi.toNat)
        st := .mcopy })

/-- 43_match.md R195 and the fault entry of 60_exceptions.md R254. -/
def Obligations.ReservedMatchExtensionRaises : Prop :=
  ∀ s : State, s.st = .mext → s.rp < s.inEnd →
    (∀ e : Byte, s.chk = true → exec (.mextRsvd e) s = .next
      { s with fcode := 5, fstate := 9, st := .fault }) ∧
    (∀ e : Byte, s.chk = false → exec (.mextRsvd e) s = .fault (.unspecified .rsvdMext)) ∧
    (s.rst = false → 240 ≤ (s.readIn s.rp.toNat).toNat → step s = exec (.mextRsvd (s.readIn s.rp.toNat)) s)

/-- 43_match.md R197, with the two micro-steps before it (R191, R194). -/
def Obligations.SentinelEndsTheRun : Prop :=
  ∀ s : State, s.rp < s.inEnd →
    (s.st = .mext → exec .mextEod s = .next { s with rp := s.rp + 1, st := .mextWL }) ∧
    (s.st = .mextWL → exec .mextEod s = .next { s with rp := s.rp + 1, ext := 0, st := .mextWH }) ∧
    (s.st = .mextWH → ∃ t : State, exec .mextEod s = .next t ∧ t = { s with rp := s.rp + 1, st := .done } ∧
      isBusy t = false ∧ isDone t = true ∧
      (readReg t .result).toNat = (s.wp.toNat + 2 ^ 32 - s.org.toNat) % 2 ^ Config.addrW ∧
      (∀ a : Access, a ∈ accesses s → a = .inRead s.rp.toNat) ∧
      ∀ k : Nat, run k t = .next t ∧ accesses t = [])

/-- 43_match.md R198. -/
def Obligations.SentinelIsOnlyNormalEnd : Prop :=
  (∀ s t : State, step s = .next t → s.st ≠ .done → t.st = .done →
    s.st = .mextWH ∧ s.ext = 0 ∧ s.readIn s.rp.toNat = 0 ∧ t.outMem = s.outMem ∧ (s.Inv → tokM s.tok = 15)) ∧
  (∀ s t : State, step s = .next t → isBusy s = true → isBusy t = false →
    t.st = .done ∨ (t.st = .fault ∧ s.chk = true)) ∧
  (∀ s : State, s.rst = false → isBusy s = true → s.st ≠ .mcopy → s.inEnd ≤ s.rp →
    (s.chk = true → ∃ t : State, step s = .next t ∧ t.st = .fault ∧ t.fcode = 1) ∧
    (s.chk = false → step s = .fault (.unspecified .inOverrun)))

/-- 43_match.md R200 and R206, for all sixteen behaviours (40_dispatch.md R126). That the instruction of MCOPY is the token is the model's naming (log entries 4, 6). The byte is read back where OUT has the address (20_memory.md R62; log entry 26). -/
def Obligations.TokensCopyOneMatchByte : Prop :=
  ∀ (i : Instr) (s : State), i.space = .token → s.st = .mcopy → s.mlen ≠ 0 →
    s.org.toNat + s.dist.toNat ≤ s.wp.toNat → s.wp < s.outEnd →
    ∃ t : State, exec i s = .next t ∧
      t = { s with
        wp := s.wp + 1
        mlen := s.mlen - 1
        st := if s.mlen = 1 then .token else .mcopy
        outMem := t.outMem } ∧
      (s.wp.toNat < Config.outSize → t.readOut s.wp.toNat = s.readOut (s.wp.toNat - s.dist.toNat)) ∧
      ∀ a : Nat, a ≠ s.wp.toNat → t.readOut a = s.readOut a

/-- 43_match.md R202: forward, byte by byte, so that an overlapping match repeats its own output. OUT has the addresses below OUT_SIZE (20_memory.md R62). -/
def Obligations.MatchRunCopiesForward : Prop :=
  ∀ s : State, s.rst = false → s.st = .mcopy → s.mlen ≠ 0 → 1 ≤ s.dist.toNat →
    s.org.toNat + s.dist.toNat ≤ s.wp.toNat → s.wp.toNat + s.mlen.toNat ≤ s.outEnd.toNat →
    ∃ t : State, run s.mlen.toNat s = .next t ∧
      t = { s with wp := t.wp, mlen := 0, st := .token, outMem := t.outMem } ∧
      t.wp.toNat = s.wp.toNat + s.mlen.toNat ∧
      (∀ i : Nat, i < s.mlen.toNat → s.wp.toNat + i < Config.outSize →
        t.readOut (s.wp.toNat + i) = t.readOut (s.wp.toNat + i - s.dist.toNat) ∧
        t.readOut (s.wp.toNat + i) = s.readOut (s.wp.toNat - s.dist.toNat + i % s.dist.toNat)) ∧
      (∀ a : Nat, a < s.wp.toNat ∨ s.wp.toNat + s.mlen.toNat ≤ a → t.readOut a = s.readOut a)

/-- 43_match.md R203; OUT has the addresses below OUT_SIZE (20_memory.md R62). -/
def Obligations.ShortDistancesReplicate : Prop :=
  ∀ s : State, s.rst = false → s.st = .mcopy → s.mlen ≠ 0 →
    s.org.toNat + s.dist.toNat ≤ s.wp.toNat → s.wp.toNat + s.mlen.toNat ≤ s.outEnd.toNat →
    ∃ t : State, run s.mlen.toNat s = .next t ∧
      (s.dist = 1 → ∀ i : Nat, i < s.mlen.toNat → s.wp.toNat + i < Config.outSize →
        t.readOut (s.wp.toNat + i) = s.readOut (s.wp.toNat - 1)) ∧
      (s.dist = 2 → ∀ i : Nat, i < s.mlen.toNat → s.wp.toNat + i < Config.outSize →
        t.readOut (s.wp.toNat + i) = s.readOut (if i % 2 = 0 then s.wp.toNat - 2 else s.wp.toNat - 1))

/-- 43_match.md R201. -/
def Obligations.OriginTestFailsOnlyFirst : Prop :=
  (∀ s t : State, s.rst = false → s.st = .mcopy → step s = .next t → t.st = .mcopy →
    t.org.toNat + t.dist.toNat ≤ t.wp.toNat) ∧
  (∀ s : State, s.rst = false → s.st = .mcopy → s.wp.toNat < s.org.toNat + s.dist.toNat → step s = raise s .mcopy .origin) ∧
  (∀ s t : State, step s = .next t → s.st ≠ .mcopy → s.st ≠ .fault → t.st = .fault → t.fcode ≠ 3)

/-- Two descriptions of the engine, by opcode-table row and by FSM state, agree (44_control.md R221). -/
def Obligations.StepIsTheTransitionFunction : Prop :=
  ∀ s : State, step s = transition s

/-- 44_control.md R220, 60_exceptions.md R267 and 70_reset_and_hazards.md R280. -/
def Obligations.QuietStatesDoNothing : Prop :=
  ∀ s : State, s.st = .idle ∨ s.st = .done ∨ s.st = .fault ∨ s.rst = true →
    accesses s = [] ∧ ∀ k : Nat, run k s = .next s

/-- 44_control.md R227, stated from any TOKEN state, the one START leaves included. -/
def Obligations.EveryRunEndsWithinBound : Prop :=
  ∀ s : State, s.rst = false → s.st = .token →
    ∃ k : Nat, k ≤ (s.inEnd.toNat - s.rp.toNat) + 1 + 65535 * ((s.inEnd.toNat - s.rp.toNat) / 2) ∧
      ((∃ t : State, run k s = .next t ∧ t.st = .done) ∨
       (s.chk = true ∧ ∃ t : State, run k s = .next t ∧ t.st = .fault) ∨
       (s.chk = false ∧ ∃ e : Event, run k s = .fault (.unspecified e))) ∧
      isOver (run k s) = true ∧ ∃ o : Observation, observeRun k s = some o

/-- 44_control.md R228: the output is a function of the block alone, and moving org moves the output and nothing else. The capacity takes the place of out_end. -/
def Obligations.RunIsFunctionOfTheBlock : Prop :=
  ∀ s t : State, s.rst = false → t.rst = false → s.st = .token → t.st = .token → s.wp = s.org → t.wp = t.org →
    s.chk = t.chk → s.rp = t.rp → s.inEnd = t.inEnd →
    s.outEnd.toNat - s.org.toNat = t.outEnd.toNat - t.org.toNat →
    s.outEnd.toNat ≤ Config.outSize → t.outEnd.toNat ≤ Config.outSize →
    s.tok = t.tok → s.bid = t.bid → s.ext = t.ext → s.llen = t.llen → s.mlen = t.mlen → s.dist = t.dist →
    s.fcode = t.fcode → s.fstate = t.fstate →
    (∀ a : Nat, s.rp.toNat ≤ a → a < s.inEnd.toNat → s.readIn a = t.readIn a) →
    ∀ k : Nat,
      (∃ s' t' : State, run k s = .next s' ∧ run k t = .next t' ∧
        s'.st = t'.st ∧ s'.rp = t'.rp ∧ s'.tok = t'.tok ∧ s'.bid = t'.bid ∧ s'.ext = t'.ext ∧
        s'.llen = t'.llen ∧ s'.mlen = t'.mlen ∧ s'.dist = t'.dist ∧ s'.fcode = t'.fcode ∧ s'.fstate = t'.fstate ∧
        s'.wp.toNat - s.org.toNat = t'.wp.toNat - t.org.toNat ∧ s'.produced = t'.produced) ∨
      (∃ f : Fault, run k s = .fault f ∧ run k t = .fault f)

/-- The whole of each behaviour of 40_dispatch.md R127 to R142, with the step count of 44_control.md R229. -/
def Obligations.RecordRunsToItsExpansion : Prop :=
  ∀ (s : State) (r : Record) (out : List Byte), s.rst = false → s.st = .token → r.wf = true →
    s.org.toNat ≤ s.wp.toNat → s.holds s.rp.toNat r.bytes → s.rp.toNat + r.bytes.length ≤ s.inEnd.toNat →
    s.wp.toNat + r.lits.length + r.mlen ≤ s.outEnd.toNat →
    s.wp.toNat + r.lits.length + r.mlen ≤ Config.outSize → r.expand s.produced = some out →
    ∃ t : State, run r.steps s = .next t ∧
      t.st = (if r.isEod then .done else .token) ∧
      t.rp.toNat = s.rp.toNat + r.bytes.length ∧ t.wp.toNat = s.wp.toNat + r.lits.length + r.mlen ∧
      t.org = s.org ∧ t.produced = out ∧ t.inMem = s.inMem ∧
      ∀ a : Nat, a < s.wp.toNat ∨ t.wp.toNat ≤ a → t.readOut a = s.readOut a

/-- The decoder is correct for every block given explicitly (44_control.md R233, R230, R226); bytes after the EOD record are not read (30_encoding.md R107). -/
def Obligations.BlockDecompresses : Prop :=
  ∀ (s : State) (block rest out : List Byte) (rs : List Record),
    takeBlock block.length block = some (rs, rest) → expandAll [] rs = some out →
    s.rst = false → s.st = .token → s.wp = s.org → s.outEnd.toNat < 2 ^ Config.addrW →
    s.holds s.rp.toNat block → s.rp.toNat + (block.length - rest.length) ≤ s.inEnd.toNat →
    s.org.toNat + out.length ≤ s.outEnd.toNat → s.org.toNat + out.length ≤ Config.outSize →
    ∃ t : State, run (rs.map Record.steps).sum s = .next t ∧
      t.st = .done ∧ t.produced = out ∧ (readReg t .result).toNat = out.length ∧
      t.rp.toNat = s.rp.toNat + (block.length - rest.length) ∧ t.inMem = s.inMem ∧
      ∀ a : Nat, a < s.org.toNat ∨ s.org.toNat + out.length ≤ a → t.readOut a = s.readOut a

/-- 30_encoding.md R96. -/
def Obligations.RecordLengthsAdd : Prop :=
  (∀ r : Record, r.wf = true → r.bytes.length = r.length ∧ extBytes r.lext ≤ 3 ∧ extBytes r.mext ≤ 3 ∧
    2 ≤ r.bytes.length ∧ r.bytes.length ≤ 65544) ∧
  (∃ r : Record, r.wf = true ∧ r.bytes.length = 2) ∧ (∃ r : Record, r.wf = true ∧ r.bytes.length = 65544)

/-- 30_encoding.md R102: how a decoder finds a record's length. -/
def Obligations.RecordsReadBack : Prop :=
  (∀ (r : Record) (rest : List Byte), r.wf = true → takeRecord (r.bytes ++ rest) = some (r, rest)) ∧
  (∀ (bs rest : List Byte) (r : Record), takeRecord bs = some (r, rest) → r.wf = true ∧ r.bytes ++ rest = bs)

/-- 30_encoding.md R103 to R105, form by form. -/
def Obligations.CanonicalRecordsAreWellFormed : Prop :=
  (∀ (lits : List Byte) (d n : Nat), lits.length ≤ 65535 → 1 ≤ d → d ≤ 65536 → 1 ≤ n → n ≤ 65535 →
    ((seqRecord lits d n).wf = true ∧ (seqRecord lits d n).llen = some lits.length ∧
      ofsDist (seqRecord lits d n).ofs = some d ∧ (seqRecord lits d n).ending = some (.copy n)) ∧
    (3 ≤ n → n ≤ 17 → tokenMatch (seqRecord lits d n).tok = some n ∧ (seqRecord lits d n).mext = none) ∧
    (18 ≤ n → n ≤ 255 → tokenMatch (seqRecord lits d n).tok = none ∧
      (seqRecord lits d n).mext = some (.mextShort (BitVec.ofNat 8 (n - 18)))) ∧
    (256 ≤ n → n ≤ 511 → tokenMatch (seqRecord lits d n).tok = none ∧
      (seqRecord lits d n).mext = some (.mextByte (BitVec.ofNat 8 (n - 256)))) ∧
    (n ≤ 2 ∨ 512 ≤ n → tokenMatch (seqRecord lits d n).tok = none ∧
      (seqRecord lits d n).mext = some (.mextWord (BitVec.ofNat 8 (n % 256)) (BitVec.ofNat 8 (n / 256)))) ∧
    (d ≤ 256 → tokenWide (seqRecord lits d n).tok = false ∧
      (seqRecord lits d n).ofs = .ofs8 (BitVec.ofNat 8 (256 - d))) ∧
    (257 ≤ d → tokenWide (seqRecord lits d n).tok = true ∧ (seqRecord lits d n).ofs
      = .ofs16 (BitVec.ofNat 8 ((65536 - d) % 256)) (BitVec.ofNat 8 ((65536 - d) / 256)))) ∧
  (∀ lits : List Byte, lits.length ≤ 65535 → (eodRecord lits).wf = true ∧
    (eodRecord lits).llen = some lits.length ∧ (eodRecord lits).isEod = true ∧
    tokenWide (eodRecord lits).tok = false ∧ tokenMatch (eodRecord lits).tok = none ∧
    (eodRecord lits).ofs = .ofs8 0x00 ∧ (eodRecord lits).mext = some .mextEod) ∧
  (∀ (r : Record) (lits : List Byte), (r = eodRecord lits ∨ ∃ d n : Nat, r = seqRecord lits d n) →
    lits.length ≤ 65535 →
    r.lits = lits ∧
    (lits.length ≤ 6 → tokenLits r.tok = some lits.length ∧ r.lext = none) ∧
    (7 ≤ lits.length → lits.length ≤ 255 → tokenLits r.tok = none ∧
      r.lext = some (.lextShort (BitVec.ofNat 8 (lits.length - 7)))) ∧
    (256 ≤ lits.length → lits.length ≤ 511 → tokenLits r.tok = none ∧
      r.lext = some (.lextByte (BitVec.ofNat 8 (lits.length - 256)))) ∧
    (512 ≤ lits.length → tokenLits r.tok = none ∧
      r.lext = some (.lextWord (BitVec.ofNat 8 (lits.length % 256)) (BitVec.ofNat 8 (lits.length / 256)))))

/-- 10_state.md R36 to R38 and 20_memory.md R72. -/
def Obligations.CursorsOnlyAdvance : Prop :=
  ∀ s t : State, step s = .next t →
    (t.rp = s.rp ∨ (s.rp < s.inEnd ∧ t.rp.toNat = s.rp.toNat + 1)) ∧
    (t.wp = s.wp ∨ (s.wp < s.outEnd ∧ t.wp.toNat = s.wp.toNat + 1)) ∧
    t.org = s.org ∧ t.inEnd = s.inEnd ∧ t.outEnd = s.outEnd ∧ t.chk = s.chk ∧ t.ie = s.ie

/-- 60_exceptions.md R254. -/
def Obligations.FaultEntryRecordsAndStops : Prop :=
  ∀ (s : State) (e : Event), s.chk = true → pendingEvent s = some e →
    ∃ t : State, step s = .next t ∧
      t = { s with fcode := eventCode e, fstate := fsmCode s.st, st := .fault } ∧
      isBusy t = false ∧ isFault t = true ∧ irq t = s.ie ∧ accesses t = [] ∧ ∀ k : Nat, run k t = .next t

/-- 60_exceptions.md R251, row by row with `rst` released, with the tests of each micro-step in order (R256). -/
def Obligations.EventsRaisedAsTabled : Prop :=
  (∀ s : State, s.rst = false → s.st ≠ .idle ∧ s.st ≠ .done ∧ s.st ≠ .fault ∧ s.st ≠ .mcopy ∧ s.inEnd ≤ s.rp →
    (s.chk = true → step s = .next { s with fcode := 1, fstate := fsmCode s.st, st := .fault }) ∧
    (s.chk = false → step s = .fault (.unspecified .inOverrun))) ∧
  (∀ s : State, s.rst = false → ((s.st = .lcopy ∧ s.rp < s.inEnd) ∨
      (s.st = .mcopy ∧ s.org.toNat + s.dist.toNat ≤ s.wp.toNat)) ∧ s.outEnd ≤ s.wp →
    (s.chk = true → step s = .next { s with fcode := 2, fstate := fsmCode s.st, st := .fault }) ∧
    (s.chk = false → step s = .fault (.unspecified .outOverrun))) ∧
  (∀ s : State, s.rst = false → s.st = .mcopy ∧ s.wp.toNat < s.org.toNat + s.dist.toNat →
    (s.chk = true → step s = .next { s with fcode := 3, fstate := fsmCode s.st, st := .fault }) ∧
    (s.chk = false → step s = .fault (.unspecified .origin))) ∧
  (∀ s : State, s.rst = false → s.st = .lext ∧ s.rp < s.inEnd ∧ 251 ≤ (s.readIn s.rp.toNat).toNat →
    (s.chk = true → step s = .next { s with fcode := 4, fstate := fsmCode s.st, st := .fault }) ∧
    (s.chk = false → step s = .fault (.unspecified .rsvdLext))) ∧
  (∀ s : State, s.rst = false → s.st = .mext ∧ s.rp < s.inEnd ∧ 240 ≤ (s.readIn s.rp.toNat).toNat →
    (s.chk = true → step s = .next { s with fcode := 5, fstate := fsmCode s.st, st := .fault }) ∧
    (s.chk = false → step s = .fault (.unspecified .rsvdMext))) ∧
  (∀ (s : State) (f : Fault), step s = .fault f → s.chk = false ∧ ∃ e : Event, f = .unspecified e ∧ pendingEvent s = some e) ∧
  (∀ s t : State, step s = .next t → s.st ≠ .fault → t.st = .fault →
    s.chk = true ∧ ∃ e : Event, pendingEvent s = some e ∧ t.fcode = eventCode e)

/-- 60_exceptions.md R256, with 'raised' the shared operation of R250 and R251. -/
def Obligations.EventPriorityIsPseudocodeOrder : Prop :=
  (∀ s : State, s.rst = false → s.st = .lcopy → s.inEnd ≤ s.rp → step s = raise s .lcopy .inOverrun) ∧
  (∀ s : State, s.rst = false → s.st = .lcopy → s.rp < s.inEnd → s.outEnd ≤ s.wp →
    step s = raise s .lcopy .outOverrun) ∧
  (∀ s : State, s.rst = false → s.st = .mcopy → s.wp.toNat < s.org.toNat + s.dist.toNat →
    step s = raise s .mcopy .origin) ∧
  (∀ s : State, s.rst = false → s.st = .mcopy → s.org.toNat + s.dist.toNat ≤ s.wp.toNat →
    s.outEnd ≤ s.wp → step s = raise s .mcopy .outOverrun) ∧
  (∀ s : State, s.rst = false → s.st = .lext → s.inEnd ≤ s.rp → step s = raise s .lext .inOverrun) ∧
  (∀ s : State, s.rst = false → s.st = .lext → s.rp < s.inEnd → 251 ≤ (s.readIn s.rp.toNat).toNat →
    step s = raise s .lext .rsvdLext) ∧
  (∀ s : State, s.rst = false → s.st = .mext → s.inEnd ≤ s.rp → step s = raise s .mext .inOverrun) ∧
  (∀ s : State, s.rst = false → s.st = .mext → s.rp < s.inEnd → 240 ≤ (s.readIn s.rp.toNat).toNat →
    step s = raise s .mext .rsvdMext) ∧
  (∀ s : State, s.rst = false → s.st ∈ [Fsm.token, .lextB, .lextWL, .lextWH, .ofsLo, .ofsHi, .mextB, .mextWL, .mextWH] →
    (s.inEnd ≤ s.rp → step s = raise s s.st .inOverrun) ∧
    (s.rp < s.inEnd → ∃ t : State, step s = .next t ∧ t.st ≠ .fault)) ∧
  (∀ (s t : State) (f : Fsm) (e : Event), raise s f e = .next t → ∀ k : Nat, run k t = .next t)

/-- 60_exceptions.md R253. -/
def Obligations.FaultCodesAreTheFive : Prop :=
  (eventCode .inOverrun = 1 ∧ eventCode .outOverrun = 2 ∧ eventCode .origin = 3 ∧ eventCode .rsvdLext = 4 ∧
    eventCode .rsvdMext = 5) ∧
  State.reset.fcode = 0 ∧ (∀ (s : State) (v : Word), (start s v).fcode = 0) ∧
  (∀ s t : State, s.Inv → step s = .next t → t.st ≠ .fault → t.fcode = 0) ∧
  (∀ s t : State, s.fcode.toNat ≤ 5 → step s = .next t → t.fcode.toNat ≤ 5) ∧
  (∀ (op : HostOp) (s t : State), s.fcode.toNat ≤ 5 → hostStep op s = .next t → t.fcode.toNat ≤ 5)

/-- 60_exceptions.md R250: each out-of-contract event ends the run with a fault. -/
def Obligations.CheckedModeNeverStops : Prop :=
  ∀ s : State, s.chk = true → ∃ t : State, step s = .next t

/-- 60_exceptions.md R259. -/
def Obligations.UncheckedModeNeverFaults : Prop :=
  (∀ s t : State, s.chk = false → s.st ≠ .fault → step s = .next t → t.st ≠ .fault) ∧
  (∀ s t : State, s.st ≠ .fault → step s = .next t → isFault t = true → s.chk = true ∧ t.chk = true) ∧
  (∀ (op : HostOp) (s t : State), s.st ≠ .fault → hostStep op s = .next t → t.st ≠ .fault)

/-- 60_exceptions.md R250: on input that stays in contract both modes give the same micro-steps, memory effects and end. -/
def Obligations.ModesAgreeInContract : Prop :=
  (∀ s t : State, step { s with chk := false } = .next t → step { s with chk := true } = .next { t with chk := true }) ∧
  (∀ s : State, pendingEvent s = none → ∀ c : Bool, ∃ t : State, step { s with chk := c } = .next t ∧ t.chk = c)

/-- 60_exceptions.md R260; no other state enters the function. Register writes act with `rst` released. -/
def Obligations.IrqIsALevel : Prop :=
  (∀ s : State, irq s = (s.ie && (s.st == .done || s.st == .fault))) ∧
  (∀ s t : State, step s = .next t → irq s = false → irq t = true → s.ie = true ∧ isBusy s = true ∧ isBusy t = false) ∧
  (∀ s t : State, step s = .next t → isBusy s = true → isBusy t = false → irq t = s.ie) ∧
  (∀ s t : State, step s = .next t → irq s = true → irq t = true) ∧
  (∀ (s : State) (v : Word), s.rst = false → s.st = .done ∨ s.st = .fault → v.getLsbD 0 = false →
    irq (writeReg s .ctrl v) = v.getLsbD 2) ∧
  (∀ (s : State) (v : Word), s.rst = false → isBusy s = false → v.getLsbD 0 = true →
    irq (writeReg s .ctrl v) = false) ∧
  (∀ (s : State) (v : Word), s.rst = false → v.getLsbD 2 = false → irq (writeReg s .ctrl v) = false) ∧
  (∀ s t : State, hostStep (.setReset true) s = .next t → irq t = false)

/-- Every instruction has its meaning, and the ports always complete (20_memory.md R81). -/
def Obligations.StepNeverRefuses : Prop :=
  ∀ s : State, (∀ r : Refusal, step s ≠ .refused r) ∧
    ∀ f : Fault, step s = .fault f → ∃ e : Event, f = .unspecified e

/-- The invariant is `State.Inv` in Safety.lean; its clauses cite their rules. The clauses on `stale` and `rst` are about fields of log entries 19 and 27. -/
def Obligations.InvariantKeptByStep : Prop :=
  ∀ s t : State, s.Inv → step s = .next t → t.Inv

/-- 10_state.md R47; the values of the model's own fields rest on log entries 12 and 19. -/
def Obligations.InvariantAtReset : Prop :=
  State.reset.Inv ∧ ∀ s t : State, s.Inv → hostStep (.setReset true) s = .next t → t.Inv

/-- The host's side of the invariant (44_control.md R232). -/
def Obligations.InvariantKeptByHost : Prop :=
  ∀ (op : HostOp) (s t : State), s.Inv → hostStep op s = .next t → t.Inv

/-- What the 'writes' column of 44_control.md R221 leaves out, for all 27 rows; the OUT address is `s.wp`, which the meanings store to. -/
def Obligations.InstructionsKeepTheRest : Prop :=
  ∀ (i : Instr) (s t : State), exec i s = .next t →
    (t.org = s.org ∧ t.inEnd = s.inEnd ∧ t.outEnd = s.outEnd ∧ t.chk = s.chk ∧ t.ie = s.ie ∧ t.rst = s.rst ∧
      t.rp0 = s.rp0 ∧ t.inMem = s.inMem ∧ t.stale = s.stale ∧ t.hostReads = s.hostReads) ∧
    (∀ a : Nat, a ≠ s.wp.toNat → t.readOut a = s.readOut a) ∧
    (s.st ≠ .lcopy → s.st ≠ .mcopy → t.wp = s.wp ∧ ∀ a : Nat, t.readOut a = s.readOut a) ∧
    (i.space ≠ .token → t.tok = s.tok ∧ t.bid = s.bid ∧ t.wp = s.wp ∧ ∀ a : Nat, t.readOut a = s.readOut a) ∧
    (i.space = .token → t.ext = s.ext ∧ t.dist = s.dist) ∧
    (i.space = .ofs false ∨ i.space = .ofs true → t.llen = s.llen) ∧
    (i.space = .ofs false → t.ext = s.ext) ∧
    (i.space = .litExt → t.mlen = s.mlen ∧ t.dist = s.dist) ∧
    (i.space = .matchExt → t.llen = s.llen ∧ t.dist = s.dist) ∧
    (i.space = .litExt ∨ i.space = .matchExt → i.size ≤ 2 → t.ext = s.ext) ∧
    (i.space = .token → s.st ≠ .mcopy → t.mlen = s.mlen) ∧
    (i.space = .token → s.st = .lcopy ∨ s.st = .mcopy → t.tok = s.tok ∧ t.bid = s.bid) ∧
    (i.space = .token → s.st = .mcopy → t.llen = s.llen) ∧
    (t.fcode = s.fcode ∧ t.fstate = s.fstate ∨
      t = { s with fcode := t.fcode, fstate := t.fstate, st := .fault })

/-- 20_memory.md R66 and R73: one IN read per micro-step, at rp. -/
def Obligations.UnreadInputIsIrrelevant : Prop :=
  ∀ (s : State) (m : Mem), State.readIn { s with inMem := m } s.rp.toNat = s.readIn s.rp.toNat →
    (∀ t : State, step s = .next t → step { s with inMem := m } = .next { t with inMem := m }) ∧
    (∀ f : Fault, step s = .fault f → step { s with inMem := m } = .fault f)

/-- 20_memory.md R66 and 44_control.md R220. -/
def Obligations.AccessesAreOneBytePerPort : Prop :=
  (∀ s : State, ((accesses s).filter Access.isInRead).length ≤ 1 ∧
    ((accesses s).filter Access.isOutRead).length ≤ 1 ∧ ((accesses s).filter Access.isOutWrite).length ≤ 1) ∧
  (∀ s t : State, step s = .next t → ∀ a : Nat, t.readOut a ≠ s.readOut a → Access.outWrite a ∈ accesses s) ∧
  (∀ s t : State, step s = .next t → pendingEvent s = none →
    (t.rp ≠ s.rp ↔ Access.inRead s.rp.toNat ∈ accesses s))

/-- 20_memory.md R82 and R73. The premise is a clause of the invariant (10_state.md R43). -/
def Obligations.AccessesStayInContract : Prop :=
  ∀ s : State, (s.st = .mcopy → 1 ≤ s.dist.toNat) → ∀ a : Access, a ∈ accesses s →
    match a with
    | .inRead x => x = s.rp.toNat ∧ x < s.inEnd.toNat
    | .outRead x => s.org.toNat ≤ x ∧ x < s.wp.toNat
    | .outWrite x => x = s.wp.toNat ∧ x < s.outEnd.toNat

/-- 44_control.md R224. MODEL'S CHOICE, not the spec's: the fields `rp0`, the record of rp at START (log entry 12), and `stale`, the OUT memories a host read may still show (log entry 19). With `rst` released. -/
def Obligations.StartBeginsARun : Prop :=
  ∀ (s : State) (v : Word), s.rst = false → isBusy s = false → v.getLsbD 0 = true →
    hostStep (.writeReg 4 0x00 v) s = .next
      { s with
        chk := v.getLsbD 1
        ie := v.getLsbD 2
        wp := s.org
        tok := 0
        bid := 0
        ext := 0
        llen := 0
        mlen := 0
        dist := 0
        fcode := 0
        fstate := 0
        rp0 := s.rp
        stale := s.outMem :: s.stale
        st := .token } ∧
    ∀ t : State, hostStep (.writeReg 4 0x00 v) s = .next t → isBusy t = true ∧ isDone t = false ∧ isFault t = false

/-- 10_state.md R23; with `rst` released, for while it is asserted the engine is not busy (70_reset_and_hazards.md R280). -/
def Obligations.BusyWritesTouchOnlyIe : Prop :=
  (∀ (s : State) (v : Word), s.rst = false → isBusy s = true →
    hostStep (.writeReg 4 0x00 v) s = .next { s with ie := v.getLsbD 2 } ∧
    hostStep (.writeReg 4 0x08 v) s = .next s ∧ hostStep (.writeReg 4 0x0C v) s = .next s ∧
    hostStep (.writeReg 4 0x10 v) s = .next s ∧ hostStep (.writeReg 4 0x18 v) s = .next s) ∧
  (∀ s t : State, step s = .next t → t.chk = s.chk ∧ t.inEnd = s.inEnd ∧ t.org = s.org ∧ t.outEnd = s.outEnd)

/-- 10_state.md R22, R26, R27, R28, R30; with `rst` released. -/
def Obligations.IdleWritesSetTheRegisters : Prop :=
  ∀ (s : State) (v : Word), s.rst = false → isBusy s = false →
    (∃ x : Word, x.toNat = v.toNat % 2 ^ Config.addrW ∧
      hostStep (.writeReg 4 0x08 v) s = .next { s with rp := x } ∧
      hostReadReg { s with rp := x } 4 0x08 = .ok x ∧
      hostStep (.writeReg 4 0x0C v) s = .next { s with inEnd := x } ∧
      hostReadReg { s with inEnd := x } 4 0x0C = .ok x ∧
      hostStep (.writeReg 4 0x10 v) s = .next { s with org := x } ∧
      hostReadReg { s with org := x } 4 0x10 = .ok x ∧
      hostStep (.writeReg 4 0x18 v) s = .next { s with outEnd := x } ∧
      hostReadReg { s with outEnd := x } 4 0x18 = .ok x) ∧
    (v.getLsbD 0 = false →
      hostStep (.writeReg 4 0x00 v) s = .next { s with chk := v.getLsbD 1, ie := v.getLsbD 2 })

/-- 10_state.md R21, R22, R29, R32, R33, R34. -/
def Obligations.ReadOnlyRegistersReadAndIgnore : Prop :=
  ∀ (s : State) (v : Word),
    hostReadReg s 4 0x14 = .ok s.wp ∧
    (∃ w : Word, hostReadReg s 4 0x20 = .ok w ∧ w.toNat = s.tok.toNat + 256 * s.bid.toNat) ∧
    (∃ w : Word, hostReadReg s 4 0x24 = .ok w ∧ w.toNat = s.llen.toNat) ∧
    (∃ w : Word, hostReadReg s 4 0x28 = .ok w ∧ w.toNat = s.mlen.toNat) ∧
    (∃ w : Word, hostReadReg s 4 0x2C = .ok w ∧ w.toNat = s.dist.toNat) ∧
    hostReadReg s 4 0x30 = .ok 0x4C5A5331 ∧
    (∃ w : Word, hostReadReg s 4 0x00 = .ok w ∧ w.toNat = 2 * s.chk.toNat + 4 * s.ie.toNat) ∧
    (∀ off ∈ [(0x04 : Word), 0x14, 0x1C, 0x20, 0x24, 0x28, 0x2C, 0x30], hostStep (.writeReg 4 off v) s = .next s)

/-- 10_state.md R24, with the sixteen numbers of R25. -/
def Obligations.StatusReadsItsFields : Prop :=
  (fsmCode .idle = 0 ∧ fsmCode .token = 1 ∧ fsmCode .lext = 2 ∧ fsmCode .lextB = 3 ∧ fsmCode .lextWL = 4 ∧
    fsmCode .lextWH = 5 ∧ fsmCode .lcopy = 6 ∧ fsmCode .ofsLo = 7 ∧ fsmCode .ofsHi = 8 ∧ fsmCode .mext = 9 ∧
    fsmCode .mextB = 10 ∧ fsmCode .mextWL = 11 ∧ fsmCode .mextWH = 12 ∧ fsmCode .mcopy = 13 ∧ fsmCode .done = 14 ∧
    fsmCode .fault = 15) ∧
  (∀ s : State, ∃ w : Word, hostReadReg s 4 0x04 = .ok w ∧
    w.extractLsb' 0 4 = fsmCode s.st ∧
    (w.getLsbD 4 = true ↔ s.st ≠ .idle ∧ s.st ≠ .done ∧ s.st ≠ .fault) ∧
    (w.getLsbD 5 = true ↔ s.st = .done) ∧
    (w.getLsbD 6 = true ↔ s.st = .fault) ∧
    w.getLsbD 7 = false ∧
    w.extractLsb' 8 4 = s.fcode ∧
    w.extractLsb' 12 4 = s.fstate ∧
    w.extractLsb' 16 16 = 0 ∧
    (s.Inv → w.getLsbD 6 = false → s.fcode = 0 ∧ s.fstate = 0)) ∧
  (∀ (s : State) (v : Word), hostStep (.writeReg 4 0x04 v) s = .next s) ∧
  hostReadReg State.reset 4 0x04 = .ok 0

/-- 10_state.md R31. -/
def Obligations.ResultReadsBytesProduced : Prop :=
  (∀ s : State, ∃ w : Word, hostReadReg s 4 0x1C = .ok w ∧
    (w.toNat : Int) = ((s.wp.toNat : Int) - (s.org.toNat : Int)) % ((2 ^ Config.addrW : Nat) : Int) ∧
    (s.Inv → s.org.toNat ≤ s.wp.toNat → w.toNat = s.produced.length)) ∧
  (∀ (s : State) (v : Word), hostStep (.writeReg 4 0x1C v) s = .next s) ∧
  hostReadReg State.reset 4 0x1C = .ok 0

/-- 10_state.md R35. That an unspecified access stops is the spec's treatment in 93_implementation_defined.md U6. MODEL'S CHOICE: the field `stale` (log entry 19). -/
def Obligations.RegisterAccessRules : Prop :=
  (∀ (s : State) (off v : Word), off.toNat % 4 = 0 → 0x34 ≤ off.toNat →
    hostReadReg s 4 off = .ok 0 ∧ hostStep (.writeReg 4 off v) s = .next s) ∧
  (∀ (s : State) (width : Nat) (off v : Word), width ≠ 4 ∨ off.toNat % 4 ≠ 0 →
    hostReadReg s width off = .error .regAccess ∧ hostStep (.readReg width off) s = .fault .regAccess ∧
    hostStep (.writeReg width off v) s = .fault .regAccess) ∧
  (∀ (s : State) (off : Word), off.toNat % 4 = 0 → off ≠ 0x04 ∨ isBusy s = true →
    hostStep (.readReg 4 off) s = .next s) ∧
  (∀ s : State, isBusy s = false → hostStep (.readReg 4 0x04) s = .next { s with stale := [] })

/-- 20_memory.md R61, R62 and R76, 70_reset_and_hazards.md R285, R286 and R288. That the forbidden write stops is the treatment of 93_implementation_defined.md U10. MODEL'S CHOICE, not the spec's: address 0 exists (log entry 2), the field `rp0` (log entry 12), an address without a byte stops (log entry 15), the fields `stale` and `hostReads` behind the free choice of U15 (log entry 19). -/
def Obligations.HostMemoryAccessesRespectTheRun : Prop :=
  (1 ≤ Config.inSize ∧ Config.inSize ≤ 2 ^ Config.addrW ∧ 1 ≤ Config.outSize ∧ Config.outSize ≤ 2 ^ Config.addrW) ∧
  (∀ (s : State) (a : Word) (v : Byte),
    (a.toNat < Config.inSize → isBusy s = false ∨ a < s.rp0 ∨ s.inEnd ≤ a →
      ∃ t : State, hostStep (.placeIn a v) s = .next t ∧ t = { s with inMem := t.inMem } ∧ t.readIn a.toNat = v ∧
        ∀ x : Nat, x ≠ a.toNat → t.readIn x = s.readIn x) ∧
    (a.toNat < Config.inSize → isBusy s = true → s.rp0 ≤ a → a < s.inEnd →
      hostStep (.placeIn a v) s = .fault .hostHazard) ∧
    (Config.inSize ≤ a.toNat → hostStep (.placeIn a v) s = .fault .noSuchAddress) ∧
    (a.toNat < Config.outSize → isBusy s = false ∨ a < s.org ∨ s.outEnd ≤ a →
      ∃ t : State, hostStep (.placeOut a v) s = .next t ∧ t = { s with outMem := t.outMem, stale := t.stale } ∧
        t.readOut a.toNat = v ∧ hostReadOut t a = .ok v ∧
        (∀ x : Nat, x ≠ a.toNat → t.readOut x = s.readOut x) ∧
        ∀ b : Word, b ≠ a → hostReadOut t b = hostReadOut s b) ∧
    (a.toNat < Config.outSize → isBusy s = true → s.org ≤ a → a < s.outEnd →
      hostStep (.placeOut a v) s = .fault .hostHazard) ∧
    (Config.outSize ≤ a.toNat → hostStep (.placeOut a v) s = .fault .noSuchAddress ∧
      hostStep (.readOut a) s = .fault .noSuchAddress ∧ hostReadOut s a = .error .noSuchAddress) ∧
    (a.toNat < Config.outSize → hostStep (.readOut a) s = .next { s with hostReads := s.hostReads + 1 } ∧
      (∃ m ∈ s.outMem :: s.stale, hostReadOut s a = .ok (State.readOut { s with outMem := m } a.toNat)) ∧
      (s.stale = [] → hostReadOut s a = .ok (s.readOut a.toNat)) ∧
      (∀ t : State, isBusy s = false → hostStep (.readReg 4 0x04) s = .next t →
        hostReadOut t a = .ok (s.readOut a.toNat)) ∧
      (∀ t : State, irq s = true → hostStep .readIrq s = .next t → hostReadOut t a = .ok (s.readOut a.toNat)))) ∧
  (∀ s : State, (irq s = true → hostStep .readIrq s = .next { s with stale := [] }) ∧
    (irq s = false → hostStep .readIrq s = .next s))

/-- 70_reset_and_hazards.md R280 and R282, 10_state.md R47; the values of the model's own fields after reset are its choice (log entries 12, 19) and are not stated; that a register write while `rst` is held is ignored is DEDUCED (log entry 27). -/
def Obligations.ResetSetsEveryRegister : Prop :=
  ∀ s : State, ∃ t : State, hostStep (.setReset true) s = .next t ∧ t.rst = true ∧
    (t.st = .idle ∧ t.chk = false ∧ t.ie = false ∧ t.fcode = 0 ∧ t.fstate = 0 ∧
      t.rp = 0 ∧ t.inEnd = 0 ∧ t.org = 0 ∧ t.wp = 0 ∧ t.outEnd = 0 ∧
      t.tok = 0 ∧ t.bid = 0 ∧ t.ext = 0 ∧ t.llen = 0 ∧ t.mlen = 0 ∧ t.dist = 0) ∧
    t.inMem = s.inMem ∧ t.outMem = s.outMem ∧ irq t = false ∧ hostReadReg t 4 0x04 = .ok 0 ∧
    hostReadReg t 4 0x1C = .ok 0 ∧ hostReadReg t 4 0x30 = .ok 0x4C5A5331 ∧
    accesses t = [] ∧ (∀ k : Nat, run k t = .next t) ∧
    (∀ off v : Word, off.toNat % 4 = 0 → hostStep (.writeReg 4 off v) t = .next t) ∧
    ∃ u : State, hostStep (.setReset false) t = .next u ∧ u = { t with rst := false } ∧
      accesses u = [] ∧ ∀ k : Nat, run k u = .next u

/-- 70_reset_and_hazards.md R283, steps 4 and 6 to 8. -/
def Obligations.HostProgramsARun : Prop :=
  ∀ (s : State) (inPtr inEnd outOrg outEnd v : Word), s.rst = false → isBusy s = false → v.getLsbD 0 = true →
    inPtr.toNat < 2 ^ Config.addrW → inEnd.toNat < 2 ^ Config.addrW →
    outOrg.toNat < 2 ^ Config.addrW → outEnd.toNat < 2 ^ Config.addrW →
    ∃ t : State, programRun s inPtr inEnd outOrg outEnd v = t ∧
      t.st = .token ∧ t.rp = inPtr ∧ t.inEnd = inEnd ∧ t.org = outOrg ∧ t.wp = outOrg ∧ t.outEnd = outEnd ∧
      t.chk = v.getLsbD 1 ∧ t.ie = v.getLsbD 2 ∧ t.inMem = s.inMem ∧ t.outMem = s.outMem ∧
      ∀ (block rest out : List Byte) (rs : List Record),
        takeBlock block.length block = some (rs, rest) → expandAll [] rs = some out →
        s.holds inPtr.toNat block → inPtr.toNat + (block.length - rest.length) ≤ inEnd.toNat →
        outOrg.toNat + out.length ≤ outEnd.toNat → outOrg.toNat + out.length ≤ Config.outSize →
        ∃ u : State, run (rs.map Record.steps).sum t = .next u ∧ isDone u = true ∧
          (∀ (i : Nat) (h : i < out.length), u.readOut (outOrg.toNat + i) = out[i]) ∧
          (readReg u .result).toNat = out.length ∧
          (readReg u .inPtr).toNat = inPtr.toNat + (block.length - rest.length) ∧ irq u = v.getLsbD 2 ∧
          ∀ w : State, hostStep (.readReg 4 0x04) u = .next w →
            ∀ (i : Nat) (h : i < out.length), hostReadOut w (outOrg + BitVec.ofNat 32 i) = .ok out[i]
end

