-- ==== Sys2Proof/Laws/Operands.lean ====
section
/-! SUPPORT. The operand forms as numbers, the token's fields after packing, and the address-width helpers. -/

namespace Sys2Proof.Machine

@[simp] theorem tokO_tokByte (o : Bool) (l : BitVec 3) (m : BitVec 4) : tokO (tokByte o l m) = o := by
  revert o l m; decide

@[simp] theorem tokL_tokByte (o : Bool) (l : BitVec 3) (m : BitVec 4) : tokL (tokByte o l m) = l := by
  revert o l m; decide

@[simp] theorem tokM_tokByte (o : Bool) (l : BitVec 3) (m : BitVec 4) : tokM (tokByte o l m) = m := by
  revert o l m; decide

/-- Unpacking and packing a token gives it back. -/
theorem tokByte_fields (t : Byte) : tokByte (tokO t) (tokL t) (tokM t) = t := by
  revert t; decide

theorem le16_toNat (lo hi : Byte) : (le16 lo hi).toNat = lo.toNat + 256 * hi.toNat := by
  have := lo.isLt; have := hi.isLt
  simp only [le16, BitVec.toNat_append, Nat.shiftLeft_eq]
  rw [← Nat.shiftLeft_eq, ← Nat.shiftLeft_add_eq_or_of_lt (by omega), Nat.shiftLeft_eq]; omega

theorem litShort_toNat (e : Byte) : (litShort e).toNat = 7 + e.toNat := by
  have := e.isLt; simp [litShort, BitVec.toNat_add]; omega

theorem litByte_toNat (f : Byte) : (litByte f).toNat = 256 + f.toNat := by
  have := f.isLt; simp [litByte, BitVec.toNat_add]; omega

theorem matchInline_toNat (m : BitVec 4) : (matchInline m).toNat = m.toNat + 3 := by
  have := m.isLt; simp [matchInline, BitVec.toNat_add]; omega

theorem matchShort_toNat (e : Byte) : (matchShort e).toNat = 18 + e.toNat := by
  have := e.isLt; simp [matchShort, BitVec.toNat_add]; omega

theorem matchByte_toNat (f : Byte) : (matchByte f).toNat = 256 + f.toNat := by
  have := f.isLt; simp [matchByte, BitVec.toNat_add]; omega

theorem dist8_toNat (lo : Byte) : (dist8 lo).toNat = 256 - lo.toNat := by
  have := lo.isLt; simp [dist8, BitVec.toNat_sub]; omega

theorem dist16_toNat (lo hi : Byte) : (dist16 lo hi).toNat = 65536 - (lo.toNat + 256 * hi.toNat) := by
  have := lo.isLt; have := hi.isLt; have h := le16_toNat lo hi
  simp [dist16, BitVec.toNat_sub, h]; omega

/-- `ADDR_W` is 17 to 32 (00_scope.md R6). -/
theorem addrW_bounds : 17 ≤ Config.addrW ∧ Config.addrW ≤ 32 := by
  have := Config.addrWSel.isLt; simp only [Config.addrW]; omega

theorem pow17_le_addrW : 2 ^ 17 ≤ 2 ^ Config.addrW := Nat.pow_le_pow_right (by decide) addrW_bounds.1

theorem pow_addrW_le : 2 ^ Config.addrW ≤ 2 ^ 32 := Nat.pow_le_pow_right (by decide) addrW_bounds.2

theorem fitsAddr_iff (n : Nat) : fitsAddr n = true ↔ n < 2 ^ Config.addrW := by
  have := pow17_le_addrW
  simp only [fitsAddr, Bool.or_eq_true, decide_eq_true_eq]; omega

/-- A written value is reduced modulo `2^ADDR_W`. -/
theorem truncAddr_toNat (v : Word) : (truncAddr v).toNat = v.toNat % 2 ^ Config.addrW := by
  have hv := v.isLt
  unfold truncAddr
  split
  · rename_i h; rw [Nat.mod_eq_of_lt ((fitsAddr_iff _).1 h)]
  · rw [BitVec.toNat_ofNat, Nat.mod_eq_of_lt (Nat.lt_of_le_of_lt (Nat.mod_le _ _) hv)]

theorem truncAddr_lt (v : Word) : (truncAddr v).toNat < 2 ^ Config.addrW := by
  rw [truncAddr_toNat]; exact Nat.mod_lt _ (Nat.two_pow_pos _)

/-- A value of at most `ADDR_W` bits is written whole. -/
theorem truncAddr_of_fits {v : Word} (h : v.toNat < 2 ^ Config.addrW) : truncAddr v = v := by
  simp [truncAddr, (fitsAddr_iff _).2 h]

end Sys2Proof.Machine
end

