-- ==== Sys2Proof/Laws/Decode.lean ====
section
/-! SUPPORT. What the decoder answers, space by space, and what a decoded token means. -/

namespace Sys2Proof

open Machine

theorem bitVec3_cases (l : BitVec 3) : l = 0 ∨ l = 1 ∨ l = 2 ∨ l = 3 ∨ l = 4 ∨ l = 5 ∨ l = 6 ∨ l = 7 := by
  revert l; decide

/-- A decoded token is a token, and takes one byte. -/
theorem tokenInstr_space (o : Bool) (l : BitVec 3) (m : BitVec 4) :
    (tokenInstr o l m).space = .token ∧ (tokenInstr o l m).size = 1 := by
  revert o l m; decide

/-- A decoded token meets its row's constraint. -/
theorem tokenInstr_wf (o : Bool) (l : BitVec 3) (m : BitVec 4) : (tokenInstr o l m).wf = true := by
  revert o l m; decide

/-- The decoder answers an instruction of the space it was asked in. -/
theorem decodeAt_space (sp : Space) (b0 b1 b2 : Byte) : (decodeAt sp b0 b1 b2).space = sp := by
  cases sp with
  | token => exact (tokenInstr_space _ _ _).1
  | litExt =>
    by_cases h1 : b0.toNat ≤ 248
    · simp [decodeAt, h1, Instr.space]
    · by_cases h2 : b0 = 250#8
      · simp [decodeAt, h2, Instr.space]
      · by_cases h3 : b0 = 249#8 <;> simp [decodeAt, h1, h2, h3, Instr.space]
  | ofs w => cases w <;> rfl
  | matchExt =>
    by_cases h1 : b0.toNat ≤ 237
    · simp [decodeAt, h1, Instr.space]
    · by_cases h2 : b0 = 238#8
      · by_cases h3 : b1 = 0#8 ∧ b2 = 0#8 <;> simp [decodeAt, h2, h3, Instr.space]
      · by_cases h3 : b0 = 239#8 <;> simp [decodeAt, h1, h2, h3, Instr.space]

theorem size_pos (i : Instr) : 1 ≤ i.size := by cases i <;> simp [Instr.size]

theorem size_le (i : Instr) : i.size ≤ 3 := by cases i <;> simp [Instr.size]

/-- The meaning of a decoded token: its byte, its behaviour number, its literal field (40_dispatch.md R120, R123). -/
theorem exec_tokenInstr (o : Bool) (l : BitVec 3) (m : BitVec 4) (s : State) :
    exec (tokenInstr o l m) s = tokenMicro
      (if l = 7 then extendedToken (tokByte o l m) (bidOf (tokByte o l m))
       else inlineToken (tokByte o l m) (bidOf (tokByte o l m)) (l.setWidth 16)) s := by
  rcases bitVec3_cases l with h | h | h | h | h | h | h | h <;> subst h <;>
    by_cases hm : m = 15#4 <;> simp [tokenInstr, hm, exec, execTokL0M, execTokL0MX, execTokL1M, execTokL1MX,
      execTokL2M, execTokL2MX, execTokL3M, execTokL3MX, execTokL4M, execTokL4MX, execTokL5M, execTokL5MX,
      execTokL6M, execTokL6MX, execTokLXM, execTokLXMX, bidOf]

end Sys2Proof
end

