-- ==== Sys2Proof/Laws/Flags.lean ====
section
/-! SUPPORT. The register words as numbers, and the registers' offsets. -/

namespace Sys2Proof.Machine

theorem append_toNat {n m : Nat} (x : BitVec n) (y : BitVec m) : (x ++ y).toNat = x.toNat * 2 ^ m + y.toNat := by
  rw [BitVec.toNat_append, Nat.shiftLeft_eq, Nat.mul_comm, ← Nat.two_pow_add_eq_or_of_lt y.isLt]

/-- STATUS, field by field (10_state.md R24). -/
theorem statusWord_toNat (s : State) : (statusWord s).toNat = (fsmCode s.st).toNat + 16 * (isBusy s).toNat
    + 32 * (isDone s).toNat + 64 * (isFault s).toNat + 256 * s.fcode.toNat + 4096 * s.fstate.toNat := by
  unfold statusWord
  simp only [append_toNat, BitVec.toNat_ofBool]
  simp; omega

/-- CTRL, field by field (R22). -/
theorem ctrlWord_toNat (s : State) : (ctrlWord s).toNat = 2 * s.chk.toNat + 4 * s.ie.toNat := by
  unfold ctrlWord
  simp only [append_toNat, BitVec.toNat_ofBool]
  simp; omega

/-- TOKEN, field by field (R32). -/
theorem tokenWord_toNat (s : State) : (tokenWord s).toNat = s.tok.toNat + 256 * s.bid.toNat := by
  unfold tokenWord
  simp only [append_toNat]
  simp; omega

/-- RESULT is the cursor difference modulo `2^ADDR_W` (R31). -/
theorem resultWord_toNat (s : State) :
    (resultWord s).toNat = (2 ^ 32 - s.org.toNat + s.wp.toNat) % 2 ^ Config.addrW := by
  rw [resultWord, truncAddr_toNat, BitVec.toNat_sub, Nat.mod_mod_of_dvd _ (Nat.pow_dvd_pow 2 addrW_bounds.2)]

/-- From 0x34 upward there is no register (R35). -/
theorem regAt_of_le {off : Word} (h : 0x34 ≤ off.toNat) : regAt off = none := by
  unfold regAt
  split <;> first | omega | rfl

/-- BUSY is set exactly in the thirteen working states (R24). -/
theorem isBusy_iff (s : State) : isBusy s = true ↔ s.st ≠ .idle ∧ s.st ≠ .done ∧ s.st ≠ .fault := by
  simp [isBusy, and_assoc]

theorem isDone_iff (s : State) : isDone s = true ↔ s.st = .done := by simp [isDone]

theorem isFault_iff (s : State) : isFault s = true ↔ s.st = .fault := by simp [isFault]

end Sys2Proof.Machine
end

