-- ==== Sys2Proof/Laws/Host.lean ====
section
/-! SUPPORT. The laws of the host's actions: one per shared operation, saying all it can do. -/

namespace Sys2Proof.Machine

variable {s : State}

/-- A CTRL write in a run takes IE only (10_state.md R23). -/
theorem writeCtrl_busy (h : isBusy s = true) (v : Word) : writeCtrl s v = { s with ie := v.getLsbD 2 } := by
  simp [writeCtrl, h]

/-- A CTRL write with START outside a run starts one (44_control.md R224). -/
theorem writeCtrl_start (h : isBusy s = false) {v : Word} (hv : v.getLsbD 0 = true) : writeCtrl s v = start s v := by
  simp only [writeCtrl, h, hv, Bool.false_eq_true, if_false, if_true]

/-- A CTRL write without START outside a run sets CHK and IE (10_state.md R22). -/
theorem writeCtrl_modes (h : isBusy s = false) {v : Word} (hv : v.getLsbD 0 = false) :
    writeCtrl s v = { s with chk := v.getLsbD 1, ie := v.getLsbD 2 } := by
  simp only [writeCtrl, h, hv, Bool.false_eq_true, if_false]

theorem writeIdle_busy (h : isBusy s = true) (t : State) : writeIdle s t = s := by simp [writeIdle, h]

theorem writeIdle_idle (h : isBusy s = false) (t : State) : writeIdle s t = t := by simp [writeIdle, h]

/-- No register write changes a memory. -/
theorem writeReg_memories (s : State) (r : Reg) (v : Word) :
    (writeReg s r v).inMem = s.inMem ∧ (writeReg s r v).outMem = s.outMem := by
  cases r <;> simp only [writeReg, writeCtrl, writeIdle, start] <;> (try split_ifs) <;> simp

/-- A 32-bit aligned write reaches the register of its offset, or none. -/
theorem hostWriteReg_ok {width : Nat} {off : Word} (h : regAccessOk width off = true) (s : State) (v : Word) :
    hostWriteReg s width off v = .next (((regAt off).map fun r => writeReg s r v).getD s) := by
  simp only [hostWriteReg, h, if_true]
  cases regAt off <;> rfl

/-- Any other write stops (R35). -/
theorem hostWriteReg_bad {width : Nat} {off : Word} (h : regAccessOk width off = false) (s : State) (v : Word) :
    hostWriteReg s width off v = .fault .regAccess := by
  simp [hostWriteReg, h]

/-- While `rst` is asserted no register write has an effect (70_reset_and_hazards.md R280). -/
theorem writeReg_held (h : s.rst = true) (r : Reg) (v : Word) : writeReg s r v = s := by simp [writeReg, h]

/-- Placing a byte in IN: the byte is placed, or the action stops under one of two names. -/
theorem hostPlaceIn_cases (s : State) (a : Word) (v : Byte) :
    (a.toNat < Config.inSize ∧ hostPlaceIn s a v = .next { s with inMem := s.inMem.write a.toNat v }) ∨
    (Config.inSize ≤ a.toNat ∧ hostPlaceIn s a v = .fault .noSuchAddress) ∨
    (isBusy s = true ∧ s.rp0 ≤ a ∧ a < s.inEnd ∧ hostPlaceIn s a v = .fault .hostHazard) := by
  unfold hostPlaceIn
  split
  · exact .inr (.inl ⟨by simp_all [inExists], rfl⟩)
  · split
    · exact .inr (.inr (by simp_all))
    · exact .inl ⟨by simp_all [inExists], rfl⟩

/-- Placing a byte in OUT: as in IN. -/
theorem hostPlaceOut_cases (s : State) (a : Word) (v : Byte) :
    (a.toNat < Config.outSize ∧ hostPlaceOut s a v
      = .next { s.writeOut a.toNat v with stale := s.stale.map fun m => m.writeOut a.toNat v }) ∨
    (Config.outSize ≤ a.toNat ∧ hostPlaceOut s a v = .fault .noSuchAddress) ∨
    (isBusy s = true ∧ s.org ≤ a ∧ a < s.outEnd ∧ hostPlaceOut s a v = .fault .hostHazard) := by
  unfold hostPlaceOut
  split
  · exact .inr (.inl ⟨by simp_all [outExists], rfl⟩)
  · split
    · exact .inr (.inr (by simp_all))
    · exact .inl ⟨by simp_all [outExists], rfl⟩

/-- What a host read shows is the newest OUT memory or one that a run not seen to be over began with. -/
theorem shownOut_mem (s : State) : shownOut s ∈ s.outMem :: s.stale := by
  unfold shownOut
  rw [List.getD_eq_getElem?_getD]
  cases h : (s.outMem :: s.stale)[Config.readSel s.hostReads]? with
  | none => simp
  | some m => exact List.mem_of_getElem? h

/-- Once the end is seen, a host read shows the newest byte (20_memory.md R76). -/
theorem shownOut_of_seen (h : s.stale = []) : shownOut s = s.outMem := by
  have := shownOut_mem s; rwa [h, List.mem_singleton] at this

/-- A host read of a register changes nothing but, for STATUS with BUSY = 0, what later OUT reads may show. -/
theorem afterReadReg_ok {width : Nat} {off : Word} (h : regAccessOk width off = true) (s : State) :
    afterReadReg s width off = .next (if regAt off = some .status ∧ isBusy s = false then seeEnd s else s) := by
  simp only [afterReadReg, h, if_true]
  by_cases h1 : regAt off = some .status <;> cases h2 : isBusy s <;> simp [h1]

theorem afterReadReg_bad {width : Nat} {off : Word} (h : regAccessOk width off = false) (s : State) :
    afterReadReg s width off = .fault .regAccess := by
  simp [afterReadReg, h]

/-- A host read of OUT counts itself and changes nothing else. -/
theorem afterReadOut_of_lt {a : Word} (h : a.toNat < Config.outSize) (s : State) :
    afterReadOut s a = .next { s with hostReads := s.hostReads + 1 } := by
  simp [afterReadOut, outExists, h]

theorem afterReadOut_of_le {a : Word} (h : Config.outSize ≤ a.toNat) (s : State) :
    afterReadOut s a = .fault .noSuchAddress := by
  simp [afterReadOut, outExists, Nat.not_lt.mpr h]

end Sys2Proof.Machine
end

