-- ==== Sys2Proof/Laws/State.lean ====
section
/-! SUPPORT. One lemma per field per update of the state: what the update does to the field. -/

namespace Sys2Proof.Machine

variable (s : State)

@[simp] theorem State.goto_st (f : Fsm) : (s.goto f).st = f := rfl
@[simp] theorem State.goto_chk (f : Fsm) : (s.goto f).chk = s.chk := rfl
@[simp] theorem State.goto_ie (f : Fsm) : (s.goto f).ie = s.ie := rfl
@[simp] theorem State.goto_fcode (f : Fsm) : (s.goto f).fcode = s.fcode := rfl
@[simp] theorem State.goto_fstate (f : Fsm) : (s.goto f).fstate = s.fstate := rfl
@[simp] theorem State.goto_rp (f : Fsm) : (s.goto f).rp = s.rp := rfl
@[simp] theorem State.goto_inEnd (f : Fsm) : (s.goto f).inEnd = s.inEnd := rfl
@[simp] theorem State.goto_org (f : Fsm) : (s.goto f).org = s.org := rfl
@[simp] theorem State.goto_wp (f : Fsm) : (s.goto f).wp = s.wp := rfl
@[simp] theorem State.goto_outEnd (f : Fsm) : (s.goto f).outEnd = s.outEnd := rfl
@[simp] theorem State.goto_tok (f : Fsm) : (s.goto f).tok = s.tok := rfl
@[simp] theorem State.goto_bid (f : Fsm) : (s.goto f).bid = s.bid := rfl
@[simp] theorem State.goto_ext (f : Fsm) : (s.goto f).ext = s.ext := rfl
@[simp] theorem State.goto_llen (f : Fsm) : (s.goto f).llen = s.llen := rfl
@[simp] theorem State.goto_mlen (f : Fsm) : (s.goto f).mlen = s.mlen := rfl
@[simp] theorem State.goto_dist (f : Fsm) : (s.goto f).dist = s.dist := rfl
@[simp] theorem State.goto_rp0 (f : Fsm) : (s.goto f).rp0 = s.rp0 := rfl
@[simp] theorem State.goto_inMem (f : Fsm) : (s.goto f).inMem = s.inMem := rfl
@[simp] theorem State.goto_outMem (f : Fsm) : (s.goto f).outMem = s.outMem := rfl
@[simp] theorem State.goto_rst (f : Fsm) : (s.goto f).rst = s.rst := rfl
@[simp] theorem State.goto_stale (f : Fsm) : (s.goto f).stale = s.stale := rfl
@[simp] theorem State.goto_hostReads (f : Fsm) : (s.goto f).hostReads = s.hostReads := rfl

@[simp] theorem State.advanceIn_st : (s.advanceIn).st = s.st := rfl
@[simp] theorem State.advanceIn_chk : (s.advanceIn).chk = s.chk := rfl
@[simp] theorem State.advanceIn_ie : (s.advanceIn).ie = s.ie := rfl
@[simp] theorem State.advanceIn_fcode : (s.advanceIn).fcode = s.fcode := rfl
@[simp] theorem State.advanceIn_fstate : (s.advanceIn).fstate = s.fstate := rfl
@[simp] theorem State.advanceIn_rp : (s.advanceIn).rp = s.rp + 1 := rfl
@[simp] theorem State.advanceIn_inEnd : (s.advanceIn).inEnd = s.inEnd := rfl
@[simp] theorem State.advanceIn_org : (s.advanceIn).org = s.org := rfl
@[simp] theorem State.advanceIn_wp : (s.advanceIn).wp = s.wp := rfl
@[simp] theorem State.advanceIn_outEnd : (s.advanceIn).outEnd = s.outEnd := rfl
@[simp] theorem State.advanceIn_tok : (s.advanceIn).tok = s.tok := rfl
@[simp] theorem State.advanceIn_bid : (s.advanceIn).bid = s.bid := rfl
@[simp] theorem State.advanceIn_ext : (s.advanceIn).ext = s.ext := rfl
@[simp] theorem State.advanceIn_llen : (s.advanceIn).llen = s.llen := rfl
@[simp] theorem State.advanceIn_mlen : (s.advanceIn).mlen = s.mlen := rfl
@[simp] theorem State.advanceIn_dist : (s.advanceIn).dist = s.dist := rfl
@[simp] theorem State.advanceIn_rp0 : (s.advanceIn).rp0 = s.rp0 := rfl
@[simp] theorem State.advanceIn_inMem : (s.advanceIn).inMem = s.inMem := rfl
@[simp] theorem State.advanceIn_outMem : (s.advanceIn).outMem = s.outMem := rfl
@[simp] theorem State.advanceIn_rst : (s.advanceIn).rst = s.rst := rfl
@[simp] theorem State.advanceIn_stale : (s.advanceIn).stale = s.stale := rfl
@[simp] theorem State.advanceIn_hostReads : (s.advanceIn).hostReads = s.hostReads := rfl

@[simp] theorem State.advanceOut_st : (s.advanceOut).st = s.st := rfl
@[simp] theorem State.advanceOut_chk : (s.advanceOut).chk = s.chk := rfl
@[simp] theorem State.advanceOut_ie : (s.advanceOut).ie = s.ie := rfl
@[simp] theorem State.advanceOut_fcode : (s.advanceOut).fcode = s.fcode := rfl
@[simp] theorem State.advanceOut_fstate : (s.advanceOut).fstate = s.fstate := rfl
@[simp] theorem State.advanceOut_rp : (s.advanceOut).rp = s.rp := rfl
@[simp] theorem State.advanceOut_inEnd : (s.advanceOut).inEnd = s.inEnd := rfl
@[simp] theorem State.advanceOut_org : (s.advanceOut).org = s.org := rfl
@[simp] theorem State.advanceOut_wp : (s.advanceOut).wp = s.wp + 1 := rfl
@[simp] theorem State.advanceOut_outEnd : (s.advanceOut).outEnd = s.outEnd := rfl
@[simp] theorem State.advanceOut_tok : (s.advanceOut).tok = s.tok := rfl
@[simp] theorem State.advanceOut_bid : (s.advanceOut).bid = s.bid := rfl
@[simp] theorem State.advanceOut_ext : (s.advanceOut).ext = s.ext := rfl
@[simp] theorem State.advanceOut_llen : (s.advanceOut).llen = s.llen := rfl
@[simp] theorem State.advanceOut_mlen : (s.advanceOut).mlen = s.mlen := rfl
@[simp] theorem State.advanceOut_dist : (s.advanceOut).dist = s.dist := rfl
@[simp] theorem State.advanceOut_rp0 : (s.advanceOut).rp0 = s.rp0 := rfl
@[simp] theorem State.advanceOut_inMem : (s.advanceOut).inMem = s.inMem := rfl
@[simp] theorem State.advanceOut_outMem : (s.advanceOut).outMem = s.outMem := rfl
@[simp] theorem State.advanceOut_rst : (s.advanceOut).rst = s.rst := rfl
@[simp] theorem State.advanceOut_stale : (s.advanceOut).stale = s.stale := rfl
@[simp] theorem State.advanceOut_hostReads : (s.advanceOut).hostReads = s.hostReads := rfl

@[simp] theorem State.setToken_st (t : Byte) (b : BitVec 4) : (s.setToken t b).st = s.st := rfl
@[simp] theorem State.setToken_chk (t : Byte) (b : BitVec 4) : (s.setToken t b).chk = s.chk := rfl
@[simp] theorem State.setToken_ie (t : Byte) (b : BitVec 4) : (s.setToken t b).ie = s.ie := rfl
@[simp] theorem State.setToken_fcode (t : Byte) (b : BitVec 4) : (s.setToken t b).fcode = s.fcode := rfl
@[simp] theorem State.setToken_fstate (t : Byte) (b : BitVec 4) : (s.setToken t b).fstate = s.fstate := rfl
@[simp] theorem State.setToken_rp (t : Byte) (b : BitVec 4) : (s.setToken t b).rp = s.rp := rfl
@[simp] theorem State.setToken_inEnd (t : Byte) (b : BitVec 4) : (s.setToken t b).inEnd = s.inEnd := rfl
@[simp] theorem State.setToken_org (t : Byte) (b : BitVec 4) : (s.setToken t b).org = s.org := rfl
@[simp] theorem State.setToken_wp (t : Byte) (b : BitVec 4) : (s.setToken t b).wp = s.wp := rfl
@[simp] theorem State.setToken_outEnd (t : Byte) (b : BitVec 4) : (s.setToken t b).outEnd = s.outEnd := rfl
@[simp] theorem State.setToken_tok (t : Byte) (b : BitVec 4) : (s.setToken t b).tok = t := rfl
@[simp] theorem State.setToken_bid (t : Byte) (b : BitVec 4) : (s.setToken t b).bid = b := rfl
@[simp] theorem State.setToken_ext (t : Byte) (b : BitVec 4) : (s.setToken t b).ext = s.ext := rfl
@[simp] theorem State.setToken_llen (t : Byte) (b : BitVec 4) : (s.setToken t b).llen = s.llen := rfl
@[simp] theorem State.setToken_mlen (t : Byte) (b : BitVec 4) : (s.setToken t b).mlen = s.mlen := rfl
@[simp] theorem State.setToken_dist (t : Byte) (b : BitVec 4) : (s.setToken t b).dist = s.dist := rfl
@[simp] theorem State.setToken_rp0 (t : Byte) (b : BitVec 4) : (s.setToken t b).rp0 = s.rp0 := rfl
@[simp] theorem State.setToken_inMem (t : Byte) (b : BitVec 4) : (s.setToken t b).inMem = s.inMem := rfl
@[simp] theorem State.setToken_outMem (t : Byte) (b : BitVec 4) : (s.setToken t b).outMem = s.outMem := rfl
@[simp] theorem State.setToken_rst (t : Byte) (b : BitVec 4) : (s.setToken t b).rst = s.rst := rfl
@[simp] theorem State.setToken_stale (t : Byte) (b : BitVec 4) : (s.setToken t b).stale = s.stale := rfl
@[simp] theorem State.setToken_hostReads (t : Byte) (b : BitVec 4) : (s.setToken t b).hostReads = s.hostReads := rfl

@[simp] theorem State.setExt_st (v : Byte) : (s.setExt v).st = s.st := rfl
@[simp] theorem State.setExt_chk (v : Byte) : (s.setExt v).chk = s.chk := rfl
@[simp] theorem State.setExt_ie (v : Byte) : (s.setExt v).ie = s.ie := rfl
@[simp] theorem State.setExt_fcode (v : Byte) : (s.setExt v).fcode = s.fcode := rfl
@[simp] theorem State.setExt_fstate (v : Byte) : (s.setExt v).fstate = s.fstate := rfl
@[simp] theorem State.setExt_rp (v : Byte) : (s.setExt v).rp = s.rp := rfl
@[simp] theorem State.setExt_inEnd (v : Byte) : (s.setExt v).inEnd = s.inEnd := rfl
@[simp] theorem State.setExt_org (v : Byte) : (s.setExt v).org = s.org := rfl
@[simp] theorem State.setExt_wp (v : Byte) : (s.setExt v).wp = s.wp := rfl
@[simp] theorem State.setExt_outEnd (v : Byte) : (s.setExt v).outEnd = s.outEnd := rfl
@[simp] theorem State.setExt_tok (v : Byte) : (s.setExt v).tok = s.tok := rfl
@[simp] theorem State.setExt_bid (v : Byte) : (s.setExt v).bid = s.bid := rfl
@[simp] theorem State.setExt_ext (v : Byte) : (s.setExt v).ext = v := rfl
@[simp] theorem State.setExt_llen (v : Byte) : (s.setExt v).llen = s.llen := rfl
@[simp] theorem State.setExt_mlen (v : Byte) : (s.setExt v).mlen = s.mlen := rfl
@[simp] theorem State.setExt_dist (v : Byte) : (s.setExt v).dist = s.dist := rfl
@[simp] theorem State.setExt_rp0 (v : Byte) : (s.setExt v).rp0 = s.rp0 := rfl
@[simp] theorem State.setExt_inMem (v : Byte) : (s.setExt v).inMem = s.inMem := rfl
@[simp] theorem State.setExt_outMem (v : Byte) : (s.setExt v).outMem = s.outMem := rfl
@[simp] theorem State.setExt_rst (v : Byte) : (s.setExt v).rst = s.rst := rfl
@[simp] theorem State.setExt_stale (v : Byte) : (s.setExt v).stale = s.stale := rfl
@[simp] theorem State.setExt_hostReads (v : Byte) : (s.setExt v).hostReads = s.hostReads := rfl

@[simp] theorem State.setLlen_st (n : Half) : (s.setLlen n).st = s.st := rfl
@[simp] theorem State.setLlen_chk (n : Half) : (s.setLlen n).chk = s.chk := rfl
@[simp] theorem State.setLlen_ie (n : Half) : (s.setLlen n).ie = s.ie := rfl
@[simp] theorem State.setLlen_fcode (n : Half) : (s.setLlen n).fcode = s.fcode := rfl
@[simp] theorem State.setLlen_fstate (n : Half) : (s.setLlen n).fstate = s.fstate := rfl
@[simp] theorem State.setLlen_rp (n : Half) : (s.setLlen n).rp = s.rp := rfl
@[simp] theorem State.setLlen_inEnd (n : Half) : (s.setLlen n).inEnd = s.inEnd := rfl
@[simp] theorem State.setLlen_org (n : Half) : (s.setLlen n).org = s.org := rfl
@[simp] theorem State.setLlen_wp (n : Half) : (s.setLlen n).wp = s.wp := rfl
@[simp] theorem State.setLlen_outEnd (n : Half) : (s.setLlen n).outEnd = s.outEnd := rfl
@[simp] theorem State.setLlen_tok (n : Half) : (s.setLlen n).tok = s.tok := rfl
@[simp] theorem State.setLlen_bid (n : Half) : (s.setLlen n).bid = s.bid := rfl
@[simp] theorem State.setLlen_ext (n : Half) : (s.setLlen n).ext = s.ext := rfl
@[simp] theorem State.setLlen_llen (n : Half) : (s.setLlen n).llen = n := rfl
@[simp] theorem State.setLlen_mlen (n : Half) : (s.setLlen n).mlen = s.mlen := rfl
@[simp] theorem State.setLlen_dist (n : Half) : (s.setLlen n).dist = s.dist := rfl
@[simp] theorem State.setLlen_rp0 (n : Half) : (s.setLlen n).rp0 = s.rp0 := rfl
@[simp] theorem State.setLlen_inMem (n : Half) : (s.setLlen n).inMem = s.inMem := rfl
@[simp] theorem State.setLlen_outMem (n : Half) : (s.setLlen n).outMem = s.outMem := rfl
@[simp] theorem State.setLlen_rst (n : Half) : (s.setLlen n).rst = s.rst := rfl
@[simp] theorem State.setLlen_stale (n : Half) : (s.setLlen n).stale = s.stale := rfl
@[simp] theorem State.setLlen_hostReads (n : Half) : (s.setLlen n).hostReads = s.hostReads := rfl

@[simp] theorem State.setMlen_st (n : Half) : (s.setMlen n).st = s.st := rfl
@[simp] theorem State.setMlen_chk (n : Half) : (s.setMlen n).chk = s.chk := rfl
@[simp] theorem State.setMlen_ie (n : Half) : (s.setMlen n).ie = s.ie := rfl
@[simp] theorem State.setMlen_fcode (n : Half) : (s.setMlen n).fcode = s.fcode := rfl
@[simp] theorem State.setMlen_fstate (n : Half) : (s.setMlen n).fstate = s.fstate := rfl
@[simp] theorem State.setMlen_rp (n : Half) : (s.setMlen n).rp = s.rp := rfl
@[simp] theorem State.setMlen_inEnd (n : Half) : (s.setMlen n).inEnd = s.inEnd := rfl
@[simp] theorem State.setMlen_org (n : Half) : (s.setMlen n).org = s.org := rfl
@[simp] theorem State.setMlen_wp (n : Half) : (s.setMlen n).wp = s.wp := rfl
@[simp] theorem State.setMlen_outEnd (n : Half) : (s.setMlen n).outEnd = s.outEnd := rfl
@[simp] theorem State.setMlen_tok (n : Half) : (s.setMlen n).tok = s.tok := rfl
@[simp] theorem State.setMlen_bid (n : Half) : (s.setMlen n).bid = s.bid := rfl
@[simp] theorem State.setMlen_ext (n : Half) : (s.setMlen n).ext = s.ext := rfl
@[simp] theorem State.setMlen_llen (n : Half) : (s.setMlen n).llen = s.llen := rfl
@[simp] theorem State.setMlen_mlen (n : Half) : (s.setMlen n).mlen = n := rfl
@[simp] theorem State.setMlen_dist (n : Half) : (s.setMlen n).dist = s.dist := rfl
@[simp] theorem State.setMlen_rp0 (n : Half) : (s.setMlen n).rp0 = s.rp0 := rfl
@[simp] theorem State.setMlen_inMem (n : Half) : (s.setMlen n).inMem = s.inMem := rfl
@[simp] theorem State.setMlen_outMem (n : Half) : (s.setMlen n).outMem = s.outMem := rfl
@[simp] theorem State.setMlen_rst (n : Half) : (s.setMlen n).rst = s.rst := rfl
@[simp] theorem State.setMlen_stale (n : Half) : (s.setMlen n).stale = s.stale := rfl
@[simp] theorem State.setMlen_hostReads (n : Half) : (s.setMlen n).hostReads = s.hostReads := rfl

@[simp] theorem State.setDist_st (d : BitVec 17) : (s.setDist d).st = s.st := rfl
@[simp] theorem State.setDist_chk (d : BitVec 17) : (s.setDist d).chk = s.chk := rfl
@[simp] theorem State.setDist_ie (d : BitVec 17) : (s.setDist d).ie = s.ie := rfl
@[simp] theorem State.setDist_fcode (d : BitVec 17) : (s.setDist d).fcode = s.fcode := rfl
@[simp] theorem State.setDist_fstate (d : BitVec 17) : (s.setDist d).fstate = s.fstate := rfl
@[simp] theorem State.setDist_rp (d : BitVec 17) : (s.setDist d).rp = s.rp := rfl
@[simp] theorem State.setDist_inEnd (d : BitVec 17) : (s.setDist d).inEnd = s.inEnd := rfl
@[simp] theorem State.setDist_org (d : BitVec 17) : (s.setDist d).org = s.org := rfl
@[simp] theorem State.setDist_wp (d : BitVec 17) : (s.setDist d).wp = s.wp := rfl
@[simp] theorem State.setDist_outEnd (d : BitVec 17) : (s.setDist d).outEnd = s.outEnd := rfl
@[simp] theorem State.setDist_tok (d : BitVec 17) : (s.setDist d).tok = s.tok := rfl
@[simp] theorem State.setDist_bid (d : BitVec 17) : (s.setDist d).bid = s.bid := rfl
@[simp] theorem State.setDist_ext (d : BitVec 17) : (s.setDist d).ext = s.ext := rfl
@[simp] theorem State.setDist_llen (d : BitVec 17) : (s.setDist d).llen = s.llen := rfl
@[simp] theorem State.setDist_mlen (d : BitVec 17) : (s.setDist d).mlen = s.mlen := rfl
@[simp] theorem State.setDist_dist (d : BitVec 17) : (s.setDist d).dist = d := rfl
@[simp] theorem State.setDist_rp0 (d : BitVec 17) : (s.setDist d).rp0 = s.rp0 := rfl
@[simp] theorem State.setDist_inMem (d : BitVec 17) : (s.setDist d).inMem = s.inMem := rfl
@[simp] theorem State.setDist_outMem (d : BitVec 17) : (s.setDist d).outMem = s.outMem := rfl
@[simp] theorem State.setDist_rst (d : BitVec 17) : (s.setDist d).rst = s.rst := rfl
@[simp] theorem State.setDist_stale (d : BitVec 17) : (s.setDist d).stale = s.stale := rfl
@[simp] theorem State.setDist_hostReads (d : BitVec 17) : (s.setDist d).hostReads = s.hostReads := rfl

@[simp] theorem State.writeOut_st (a : Nat) (v : Byte) : (s.writeOut a v).st = s.st := rfl
@[simp] theorem State.writeOut_chk (a : Nat) (v : Byte) : (s.writeOut a v).chk = s.chk := rfl
@[simp] theorem State.writeOut_ie (a : Nat) (v : Byte) : (s.writeOut a v).ie = s.ie := rfl
@[simp] theorem State.writeOut_fcode (a : Nat) (v : Byte) : (s.writeOut a v).fcode = s.fcode := rfl
@[simp] theorem State.writeOut_fstate (a : Nat) (v : Byte) : (s.writeOut a v).fstate = s.fstate := rfl
@[simp] theorem State.writeOut_rp (a : Nat) (v : Byte) : (s.writeOut a v).rp = s.rp := rfl
@[simp] theorem State.writeOut_inEnd (a : Nat) (v : Byte) : (s.writeOut a v).inEnd = s.inEnd := rfl
@[simp] theorem State.writeOut_org (a : Nat) (v : Byte) : (s.writeOut a v).org = s.org := rfl
@[simp] theorem State.writeOut_wp (a : Nat) (v : Byte) : (s.writeOut a v).wp = s.wp := rfl
@[simp] theorem State.writeOut_outEnd (a : Nat) (v : Byte) : (s.writeOut a v).outEnd = s.outEnd := rfl
@[simp] theorem State.writeOut_tok (a : Nat) (v : Byte) : (s.writeOut a v).tok = s.tok := rfl
@[simp] theorem State.writeOut_bid (a : Nat) (v : Byte) : (s.writeOut a v).bid = s.bid := rfl
@[simp] theorem State.writeOut_ext (a : Nat) (v : Byte) : (s.writeOut a v).ext = s.ext := rfl
@[simp] theorem State.writeOut_llen (a : Nat) (v : Byte) : (s.writeOut a v).llen = s.llen := rfl
@[simp] theorem State.writeOut_mlen (a : Nat) (v : Byte) : (s.writeOut a v).mlen = s.mlen := rfl
@[simp] theorem State.writeOut_dist (a : Nat) (v : Byte) : (s.writeOut a v).dist = s.dist := rfl
@[simp] theorem State.writeOut_rp0 (a : Nat) (v : Byte) : (s.writeOut a v).rp0 = s.rp0 := rfl
@[simp] theorem State.writeOut_inMem (a : Nat) (v : Byte) : (s.writeOut a v).inMem = s.inMem := rfl
@[simp] theorem State.writeOut_outMem (a : Nat) (v : Byte) : (s.writeOut a v).outMem = s.outMem.writeOut a v := rfl
@[simp] theorem State.writeOut_rst (a : Nat) (v : Byte) : (s.writeOut a v).rst = s.rst := rfl
@[simp] theorem State.writeOut_stale (a : Nat) (v : Byte) : (s.writeOut a v).stale = s.stale := rfl
@[simp] theorem State.writeOut_hostReads (a : Nat) (v : Byte) : (s.writeOut a v).hostReads = s.hostReads := rfl

@[simp] theorem State.takeFault_st (f : Fsm) (e : Event) : (s.takeFault f e).st = .fault := rfl
@[simp] theorem State.takeFault_chk (f : Fsm) (e : Event) : (s.takeFault f e).chk = s.chk := rfl
@[simp] theorem State.takeFault_ie (f : Fsm) (e : Event) : (s.takeFault f e).ie = s.ie := rfl
@[simp] theorem State.takeFault_fcode (f : Fsm) (e : Event) : (s.takeFault f e).fcode = eventCode e := rfl
@[simp] theorem State.takeFault_fstate (f : Fsm) (e : Event) : (s.takeFault f e).fstate = fsmCode f := rfl
@[simp] theorem State.takeFault_rp (f : Fsm) (e : Event) : (s.takeFault f e).rp = s.rp := rfl
@[simp] theorem State.takeFault_inEnd (f : Fsm) (e : Event) : (s.takeFault f e).inEnd = s.inEnd := rfl
@[simp] theorem State.takeFault_org (f : Fsm) (e : Event) : (s.takeFault f e).org = s.org := rfl
@[simp] theorem State.takeFault_wp (f : Fsm) (e : Event) : (s.takeFault f e).wp = s.wp := rfl
@[simp] theorem State.takeFault_outEnd (f : Fsm) (e : Event) : (s.takeFault f e).outEnd = s.outEnd := rfl
@[simp] theorem State.takeFault_tok (f : Fsm) (e : Event) : (s.takeFault f e).tok = s.tok := rfl
@[simp] theorem State.takeFault_bid (f : Fsm) (e : Event) : (s.takeFault f e).bid = s.bid := rfl
@[simp] theorem State.takeFault_ext (f : Fsm) (e : Event) : (s.takeFault f e).ext = s.ext := rfl
@[simp] theorem State.takeFault_llen (f : Fsm) (e : Event) : (s.takeFault f e).llen = s.llen := rfl
@[simp] theorem State.takeFault_mlen (f : Fsm) (e : Event) : (s.takeFault f e).mlen = s.mlen := rfl
@[simp] theorem State.takeFault_dist (f : Fsm) (e : Event) : (s.takeFault f e).dist = s.dist := rfl
@[simp] theorem State.takeFault_rp0 (f : Fsm) (e : Event) : (s.takeFault f e).rp0 = s.rp0 := rfl
@[simp] theorem State.takeFault_inMem (f : Fsm) (e : Event) : (s.takeFault f e).inMem = s.inMem := rfl
@[simp] theorem State.takeFault_outMem (f : Fsm) (e : Event) : (s.takeFault f e).outMem = s.outMem := rfl
@[simp] theorem State.takeFault_rst (f : Fsm) (e : Event) : (s.takeFault f e).rst = s.rst := rfl
@[simp] theorem State.takeFault_stale (f : Fsm) (e : Event) : (s.takeFault f e).stale = s.stale := rfl
@[simp] theorem State.takeFault_hostReads (f : Fsm) (e : Event) : (s.takeFault f e).hostReads = s.hostReads := rfl

end Sys2Proof.Machine
end

