-- ==== Sys2Proof/Laws/Memory.lean ====
section
/-! SUPPORT. The laws of byte memory: a read after a write, the canonical form, and the bound on the addresses. -/

namespace Sys2Proof.Machine

theorem Mem.read_write_same (m : Mem) (a : Nat) (v : Byte) : (Mem.write m a v).read a = some v := by
  induction m with
  | nil => simp [Mem.write, Mem.read]
  | cons c m ih =>
    obtain ⟨b, w⟩ := c
    simp only [Mem.write]
    split
    · simp [Mem.read]
    · split
      · simp [Mem.read]
      · simp [Mem.read, *]

theorem Mem.read_write_other (m : Mem) {a b : Nat} (v : Byte) (h : b ≠ a) : (Mem.write m a v).read b = m.read b := by
  induction m with
  | nil => simp [Mem.write, Mem.read, h]
  | cons c m ih =>
    obtain ⟨d, w⟩ := c
    simp only [Mem.write]
    split
    · simp [Mem.read, h]
    · split
      · subst_vars; simp [Mem.read, h]
      · simp [Mem.read, ih]

theorem Mem.write_risesFrom (m : Mem) (lo a : Nat) (v : Byte) (h : m.risesFrom lo = true) (ha : lo ≤ a) :
    (Mem.write m a v).risesFrom lo = true := by
  induction m generalizing lo with
  | nil => simp [Mem.write, Mem.risesFrom, ha]
  | cons c m ih =>
    obtain ⟨b, w⟩ := c
    simp only [Mem.risesFrom, Bool.and_eq_true, decide_eq_true_eq] at h
    simp only [Mem.write]
    split
    · simp [Mem.risesFrom, ha, h.2]; omega
    · split
      · subst_vars; simp [Mem.risesFrom, h.1, h.2]
      · simp [Mem.risesFrom, h.1]; exact ih _ h.2 (by omega)

/-- Every memory operation keeps the canonical form: there is one, the write. -/
theorem Mem.write_wf (m : Mem) (a : Nat) (v : Byte) (h : m.wf = true) : (Mem.write m a v).wf = true :=
  Mem.write_risesFrom m 0 a v h (Nat.zero_le a)

theorem Mem.write_below (m : Mem) {n a : Nat} (v : Byte) (h : m.below n = true) (ha : a < n) :
    (Mem.write m a v).below n = true := by
  induction m with
  | nil => simp [Mem.write, Mem.below, ha]
  | cons c m ih =>
    obtain ⟨b, w⟩ := c
    simp only [Mem.below, List.all_cons, Bool.and_eq_true, decide_eq_true_eq] at h
    simp only [Mem.write]
    split
    · simp only [Mem.below, List.all_cons, Bool.and_eq_true, decide_eq_true_eq]; exact ⟨ha, h⟩
    · split
      · simp only [Mem.below, List.all_cons, Bool.and_eq_true, decide_eq_true_eq]; exact ⟨ha, h.2⟩
      · simp only [Mem.below, List.all_cons, Bool.and_eq_true, decide_eq_true_eq]; exact ⟨h.1, ih h.2⟩

/-- A write to an existing OUT address lists the byte. -/
theorem Mem.writeOut_of_lt (m : Mem) {a : Nat} (v : Byte) (h : a < Config.outSize) : m.writeOut a v = m.write a v :=
  if_pos h

/-- A write to an address without a byte changes nothing (20_memory.md R62, R81). -/
theorem Mem.writeOut_of_le (m : Mem) {a : Nat} (v : Byte) (h : Config.outSize ≤ a) : m.writeOut a v = m :=
  if_neg (Nat.not_lt.mpr h)

theorem Mem.read_writeOut_other (m : Mem) {a b : Nat} (v : Byte) (h : b ≠ a) : (m.writeOut a v).read b = m.read b := by
  unfold Mem.writeOut; split
  · exact Mem.read_write_other m v h
  · rfl

/-- An OUT write keeps the canonical form and the bound. -/
theorem Mem.writeOut_wf (m : Mem) (a : Nat) (v : Byte) (h : m.wf = true ∧ m.below Config.outSize = true) :
    (m.writeOut a v).wf = true ∧ (m.writeOut a v).below Config.outSize = true := by
  unfold Mem.writeOut; split
  · exact ⟨Mem.write_wf m a v h.1, Mem.write_below m v h.2 ‹_›⟩
  · exact h

/-- Address 0 exists on every platform (20_memory.md R61, R62; log entry 2). -/
theorem inSize_pos : 0 < Config.inSize := by
  have := Nat.two_pow_pos Config.addrW; unfold Config.inSize; omega

theorem outSize_pos : 0 < Config.outSize := by
  have := Nat.two_pow_pos Config.addrW; unfold Config.outSize; omega

/-- No memory is larger than the address space (00_scope.md R6). -/
theorem sizes_le : Config.inSize ≤ 2 ^ Config.addrW ∧ Config.outSize ≤ 2 ^ Config.addrW :=
  ⟨Nat.min_le_right _ _, Nat.min_le_right _ _⟩

theorem State.reset_inMem_wf : State.reset.inMem.wf = true := rfl
theorem State.reset_outMem_wf : State.reset.outMem.wf = true := rfl

/-- The OUT byte written is the byte read back, where there is one. -/
theorem State.readOut_writeOut_same (s : State) {a : Nat} (v : Byte) (h : a < Config.outSize) :
    (s.writeOut a v).readOut a = v := by
  simp [State.readOut, Mem.writeOut_of_lt _ _ h, Mem.read_write_same]

/-- A write changes only the addressed byte (20_memory.md R68). -/
theorem State.readOut_writeOut_other (s : State) {a b : Nat} (v : Byte) (h : b ≠ a) :
    (s.writeOut a v).readOut b = s.readOut b := by
  simp [State.readOut, Mem.read_writeOut_other _ _ h]

/-- No OUT write changes an IN byte (20_memory.md R64). -/
@[simp] theorem State.readIn_writeOut (s : State) (a b : Nat) (v : Byte) : (s.writeOut a v).readIn b = s.readIn b := rfl

/-- A read depends on the IN memory alone. -/
theorem State.readIn_congr {s t : State} (h : s.inMem = t.inMem) (a : Nat) : s.readIn a = t.readIn a := by
  simp [State.readIn, h]

/-- A read depends on the OUT memory alone. -/
theorem State.readOut_congr {s t : State} (h : s.outMem = t.outMem) (a : Nat) : s.readOut a = t.readOut a := by
  simp [State.readOut, h]

end Sys2Proof.Machine
end

