-- ==== Sys2Proof/Laws/Ops.lean ====
section
/-! SUPPORT. One law per shared operation of the micro-steps: all it can do. Callers cite these and do not unfold
the operations. -/

namespace Sys2Proof.Machine

variable {s : State}

/-- With `rst` released the engine acts in its FSM state. -/
theorem active_of (h : s.rst = false) : s.active = s.st := by simp [State.active, h]

theorem active_of_st {f : Fsm} (h : s.rst = false) (h' : s.st = f) : s.active = f := (active_of h).trans h'

/-- While `rst` is asserted the engine acts as in IDLE (70_reset_and_hazards.md R280). -/
theorem active_of_rst (h : s.rst = true) : s.active = .idle := by simp [State.active, h]

/-- A working state is acted in only with `rst` released. -/
theorem st_of_active {f : Fsm} (h : s.active = f) (hf : f ≠ .idle) : s.rst = false ∧ s.st = f := by
  unfold State.active at h
  split at h
  · exact absurd h.symm hf
  · exact ⟨by simpa using ‹¬ s.rst = true›, h⟩

theorem raise_checked (h : s.chk = true) (f : Fsm) (e : Event) : raise s f e = .next (s.takeFault f e) := by
  simp [raise, h]

theorem raise_unchecked (h : s.chk = false) (f : Fsm) (e : Event) : raise s f e = .fault (.unspecified e) := by
  simp [raise, h]

/-- A micro-step commits all of its work, or raises and commits none of it. -/
theorem commit_cases (s : State) (f : Fsm) (m : Micro) :
    (∃ t, m = .ok t ∧ commit s f m = .next t) ∨ (∃ e, m = .error e ∧ commit s f m = raise s f e) := by
  cases m with
  | ok t => exact .inl ⟨t, rfl, rfl⟩
  | error e => exact .inr ⟨e, rfl, rfl⟩

theorem inByte_of_lt (h : s.rp < s.inEnd) : inByte s = .ok s.advanceIn := by
  have : ¬ s.inEnd ≤ s.rp := by bv_omega
  simp [inByte, this]

theorem inByte_of_le (h : s.inEnd ≤ s.rp) : inByte s = .error .inOverrun := by simp [inByte, h]

theorem outByte_of_lt (h : s.wp < s.outEnd) (v : Byte) :
    outByte s v = .ok (s.writeOut s.wp.toNat v).advanceOut := by
  have : ¬ s.outEnd ≤ s.wp := by bv_omega
  simp [outByte, this]

theorem outByte_of_le (h : s.outEnd ≤ s.wp) (v : Byte) : outByte s v = .error .outOverrun := by simp [outByte, h]

/-- A micro-step that reads a byte, in bounds. -/
theorem readStep_next (h : s.rp < s.inEnd) (f : Fsm) (u : State → State) :
    readStep s f u = .next (u s.advanceIn) := by
  simp [readStep, inByte_of_lt h, Except.map, commit]

/-- A micro-step that reads a byte, past the block. -/
theorem readStep_overrun (h : s.inEnd ≤ s.rp) (f : Fsm) (u : State → State) :
    readStep s f u = raise s f .inOverrun := by
  simp [readStep, inByte_of_le h, Except.map, commit]

theorem reservedStep_raise (h : s.rp < s.inEnd) (f : Fsm) (e : Event) : reservedStep s f e = raise s f e := by
  simp [reservedStep, inByte_of_lt h, Except.bind, commit]

theorem reservedStep_overrun (h : s.inEnd ≤ s.rp) (f : Fsm) (e : Event) :
    reservedStep s f e = raise s f .inOverrun := by
  simp [reservedStep, inByte_of_le h, Except.bind, commit]

/-- LCOPY in bounds: one byte, both cursors, the count, the route. -/
theorem literalCopy_next (hr : s.rp < s.inEnd) (hw : s.wp < s.outEnd) :
    literalCopy s = .next (literalLength (s.llen - 1)
      ((s.advanceIn.writeOut s.wp.toNat (s.readIn s.rp.toNat)).advanceOut)) := by
  have hw' : s.advanceIn.wp < s.advanceIn.outEnd := hw
  simp [literalCopy, inByte_of_lt hr, Except.bind, Except.map, outByte_of_lt hw', commit]

theorem literalCopy_inOverrun (hr : s.inEnd ≤ s.rp) : literalCopy s = raise s .lcopy .inOverrun := by
  simp [literalCopy, inByte_of_le hr, Except.bind, Except.map, commit]

theorem literalCopy_outOverrun (hr : s.rp < s.inEnd) (hw : s.outEnd ≤ s.wp) :
    literalCopy s = raise s .lcopy .outOverrun := by
  have hw' : s.advanceIn.outEnd ≤ s.advanceIn.wp := hw
  simp [literalCopy, inByte_of_lt hr, Except.bind, Except.map, outByte_of_le hw', commit]

/-- MCOPY in contract: one byte, the write cursor, the count, the route. -/
theorem matchCopy_next (ho : beforeOrigin s = false) (hw : s.wp < s.outEnd) :
    matchCopy s = .next (countMatchByte ((s.writeOut s.wp.toNat (s.readOut (matchSource s))).advanceOut)) := by
  simp [matchCopy, ho, outByte_of_lt hw, Except.map, commit]

theorem matchCopy_origin (ho : beforeOrigin s = true) : matchCopy s = raise s .mcopy .origin := by
  simp [matchCopy, ho, commit]

theorem matchCopy_outOverrun (ho : beforeOrigin s = false) (hw : s.outEnd ≤ s.wp) :
    matchCopy s = raise s .mcopy .outOverrun := by
  simp [matchCopy, ho, outByte_of_le hw, Except.map, commit]

theorem tokenMicro_lcopy (h : s.st = .lcopy) (g : State → Host.Outcome State Fault Refusal) :
    tokenMicro g s = literalCopy s := by simp [tokenMicro, h]

theorem tokenMicro_mcopy (h : s.st = .mcopy) (g : State → Host.Outcome State Fault Refusal) :
    tokenMicro g s = matchCopy s := by simp [tokenMicro, h]

theorem tokenMicro_read (h : s.st ≠ .lcopy) (h' : s.st ≠ .mcopy) (g : State → Host.Outcome State Fault Refusal) :
    tokenMicro g s = g s := by
  unfold tokenMicro; split <;> simp_all

/-- A literal length that is not zero routes to LCOPY (41_literal.md R167). -/
theorem literalLength_pos {n : Half} (h : n ≠ 0) (s : State) :
    literalLength n s = { s with llen := n, st := .lcopy } := by
  simp only [literalLength, if_neg h]; rfl

/-- A zero literal length routes past LCOPY (R167). -/
theorem literalLength_zero (s : State) : literalLength 0 s = { s with llen := 0, st := .ofsLo } := rfl

/-- A match word that is not zero is the length (43_match.md R194). -/
theorem matchWord_pos {w : Half} (h : w ≠ 0) (s : State) : matchWord w s = { s with mlen := w, st := .mcopy } := by
  simp only [matchWord, if_neg h]; rfl

/-- A zero match word ends the run (R197). -/
theorem matchWord_zero (s : State) : matchWord 0 s = { s with st := .done } := rfl

/-- After the offset of a token with an extended match (42_offset.md R185). -/
theorem afterOffset_extended (h : tokM s.tok = 15) : afterOffset s = { s with st := .mext } := by
  simp only [afterOffset, if_pos h]; rfl

/-- After the offset of a token with an inline match (R185, 43_match.md R190). -/
theorem afterOffset_inline (h : tokM s.tok ≠ 15) :
    afterOffset s = { s with mlen := matchInline (tokM s.tok), st := .mcopy } := by
  simp only [afterOffset, if_neg h]; rfl

/-- `beforeOrigin` is the exact comparison of 43_match.md R201. -/
theorem beforeOrigin_eq_false : beforeOrigin s = false ↔ s.org.toNat + s.dist.toNat ≤ s.wp.toNat := by
  simp [beforeOrigin]

end Sys2Proof.Machine
end

