-- ==== Sys2Proof/Laws/PerInstr.lean ====
section
/-! SUPPORT. Statements made for every instruction, one lemma per constructor. -/

namespace Sys2Proof.Laws

/-- An instruction's encoding has its size, one to three bytes, and no instruction is longer than the decoder's
window (30_encoding.md R93, R94, R97). -/
def EncodingShape.Statement (i : Instr) : Prop := (encode i).length = i.size ∧ 1 ≤ i.size ∧ i.size ≤ 3

theorem EncodingShape.tokL0M (o : Bool) (m : BitVec 4) : EncodingShape.Statement (.tokL0M o m) :=
  ⟨rfl, by simp [Instr.size], by simp [Instr.size]⟩

theorem EncodingShape.tokL0MX (o : Bool) : EncodingShape.Statement (.tokL0MX o) :=
  ⟨rfl, by simp [Instr.size], by simp [Instr.size]⟩

theorem EncodingShape.tokL1M (o : Bool) (m : BitVec 4) : EncodingShape.Statement (.tokL1M o m) :=
  ⟨rfl, by simp [Instr.size], by simp [Instr.size]⟩

theorem EncodingShape.tokL1MX (o : Bool) : EncodingShape.Statement (.tokL1MX o) :=
  ⟨rfl, by simp [Instr.size], by simp [Instr.size]⟩

theorem EncodingShape.tokL2M (o : Bool) (m : BitVec 4) : EncodingShape.Statement (.tokL2M o m) :=
  ⟨rfl, by simp [Instr.size], by simp [Instr.size]⟩

theorem EncodingShape.tokL2MX (o : Bool) : EncodingShape.Statement (.tokL2MX o) :=
  ⟨rfl, by simp [Instr.size], by simp [Instr.size]⟩

theorem EncodingShape.tokL3M (o : Bool) (m : BitVec 4) : EncodingShape.Statement (.tokL3M o m) :=
  ⟨rfl, by simp [Instr.size], by simp [Instr.size]⟩

theorem EncodingShape.tokL3MX (o : Bool) : EncodingShape.Statement (.tokL3MX o) :=
  ⟨rfl, by simp [Instr.size], by simp [Instr.size]⟩

theorem EncodingShape.tokL4M (o : Bool) (m : BitVec 4) : EncodingShape.Statement (.tokL4M o m) :=
  ⟨rfl, by simp [Instr.size], by simp [Instr.size]⟩

theorem EncodingShape.tokL4MX (o : Bool) : EncodingShape.Statement (.tokL4MX o) :=
  ⟨rfl, by simp [Instr.size], by simp [Instr.size]⟩

theorem EncodingShape.tokL5M (o : Bool) (m : BitVec 4) : EncodingShape.Statement (.tokL5M o m) :=
  ⟨rfl, by simp [Instr.size], by simp [Instr.size]⟩

theorem EncodingShape.tokL5MX (o : Bool) : EncodingShape.Statement (.tokL5MX o) :=
  ⟨rfl, by simp [Instr.size], by simp [Instr.size]⟩

theorem EncodingShape.tokL6M (o : Bool) (m : BitVec 4) : EncodingShape.Statement (.tokL6M o m) :=
  ⟨rfl, by simp [Instr.size], by simp [Instr.size]⟩

theorem EncodingShape.tokL6MX (o : Bool) : EncodingShape.Statement (.tokL6MX o) :=
  ⟨rfl, by simp [Instr.size], by simp [Instr.size]⟩

theorem EncodingShape.tokLXM (o : Bool) (m : BitVec 4) : EncodingShape.Statement (.tokLXM o m) :=
  ⟨rfl, by simp [Instr.size], by simp [Instr.size]⟩

theorem EncodingShape.tokLXMX (o : Bool) : EncodingShape.Statement (.tokLXMX o) :=
  ⟨rfl, by simp [Instr.size], by simp [Instr.size]⟩

theorem EncodingShape.ofs8 (lo : Byte) : EncodingShape.Statement (.ofs8 lo) :=
  ⟨rfl, by simp [Instr.size], by simp [Instr.size]⟩

theorem EncodingShape.ofs16 (lo hi : Byte) : EncodingShape.Statement (.ofs16 lo hi) :=
  ⟨rfl, by simp [Instr.size], by simp [Instr.size]⟩

theorem EncodingShape.lextShort (e : Byte) : EncodingShape.Statement (.lextShort e) :=
  ⟨rfl, by simp [Instr.size], by simp [Instr.size]⟩

theorem EncodingShape.lextWord (lo hi : Byte) : EncodingShape.Statement (.lextWord lo hi) :=
  ⟨rfl, by simp [Instr.size], by simp [Instr.size]⟩

theorem EncodingShape.lextByte (f : Byte) : EncodingShape.Statement (.lextByte f) :=
  ⟨rfl, by simp [Instr.size], by simp [Instr.size]⟩

theorem EncodingShape.lextRsvd (e : Byte) : EncodingShape.Statement (.lextRsvd e) :=
  ⟨rfl, by simp [Instr.size], by simp [Instr.size]⟩

theorem EncodingShape.mextShort (e : Byte) : EncodingShape.Statement (.mextShort e) :=
  ⟨rfl, by simp [Instr.size], by simp [Instr.size]⟩

theorem EncodingShape.mextWord (lo hi : Byte) : EncodingShape.Statement (.mextWord lo hi) :=
  ⟨rfl, by simp [Instr.size], by simp [Instr.size]⟩

theorem EncodingShape.mextEod : EncodingShape.Statement .mextEod :=
  ⟨rfl, by simp [Instr.size], by simp [Instr.size]⟩

theorem EncodingShape.mextByte (f : Byte) : EncodingShape.Statement (.mextByte f) :=
  ⟨rfl, by simp [Instr.size], by simp [Instr.size]⟩

theorem EncodingShape.mextRsvd (e : Byte) : EncodingShape.Statement (.mextRsvd e) :=
  ⟨rfl, by simp [Instr.size], by simp [Instr.size]⟩

end Sys2Proof.Laws
end

