-- ==== Sys2Proof/Laws/Step.lean ====
section
/-! SUPPORT. What one step does, FSM state by FSM state: the fetched instruction's micro-step, with the fetch worked
out. Proofs about `step` split on `s.active`, which is `s.st` unless `rst` is asserted, and cite these. -/

namespace Sys2Proof.Machine

open Sys2Proof

variable {s : State}

theorem step_of_fetch {i : Instr} (h : fetch s = some i) : step s = exec i s := by simp [step, h]

theorem lt_or_le (a b : Word) : a < b ∨ b ≤ a := by bv_omega

theorem blockByte_of_lt (h : s.rp < s.inEnd) : s.blockByte 0 = s.readIn s.rp.toNat := by
  have : s.rp.toNat + 0 < s.inEnd.toNat := by bv_omega
  rw [State.blockByte, if_pos this, Nat.add_zero]

theorem blockByte_of_le (h : s.inEnd ≤ s.rp) (k : Nat) : s.blockByte k = 0#8 := by
  have : ¬ s.rp.toNat + k < s.inEnd.toNat := by bv_omega
  simp only [State.blockByte, if_neg this]; rfl

/-- No action in IDLE, DONE and FAULT (44_control.md R220). -/
theorem step_of_active_quiet (h : s.active = .idle ∨ s.active = .done ∨ s.active = .fault) : step s = .next s := by
  rcases h with h | h | h <;> simp [step, fetch, fetchWindow, h]

/-- No action while `rst` is asserted (70_reset_and_hazards.md R280). -/
theorem step_held (h : s.rst = true) : step s = .next s := step_of_active_quiet (.inl (active_of_rst h))

theorem step_quiet (h : s.st = .idle ∨ s.st = .done ∨ s.st = .fault) : step s = .next s := by
  cases hr : s.rst
  · exact step_of_active_quiet (by rwa [active_of hr])
  · exact step_held hr

/-- A read at or past IN_END raises IN_OVERRUN, whatever IN holds there (20_memory.md R70). -/
theorem step_overrun (hr : s.inEnd ≤ s.rp)
    (h : s.active ∈ [Fsm.token, .lext, .lextB, .lextWL, .lextWH, .ofsLo, .ofsHi, .mext, .mextB, .mextWL, .mextWH]) :
    step s = raise s s.active .inOverrun := by
  have b := blockByte_of_le hr
  simp only [List.mem_cons, List.not_mem_nil, or_false] at h
  rcases h with h | h | h | h | h | h | h | h | h | h | h
  case inl =>
    have hf : fetch s = some (.tokL0M false 0) := by simp [fetch, fetchWindow, h, b, decodeAt]; rfl
    rw [step_of_fetch hf, h]
    exact (tokenMicro_read (by simp [(st_of_active h (by decide)).2]) (by simp [(st_of_active h (by decide)).2]) _).trans (readStep_overrun hr _ _)
  case inr.inl =>
    have hf : fetch s = some (.lextShort 0) := by simp [fetch, fetchWindow, h, b, decodeAt]
    rw [step_of_fetch hf, h]; exact readStep_overrun hr _ _
  case inr.inr.inl =>
    have hf : fetch s = some (.lextByte 0) := by simp [fetch, fetchWindow, h, b, decodeAt]
    rw [step_of_fetch hf, h]; simp only [exec, execLextByte, (st_of_active h (by decide)).2]; exact readStep_overrun hr _ _
  case inr.inr.inr.inl =>
    have hf : fetch s = some (.lextWord 0 0) := by simp [fetch, fetchWindow, h, b, decodeAt]
    rw [step_of_fetch hf, h]; simp only [exec, execLextWord, (st_of_active h (by decide)).2]; exact readStep_overrun hr _ _
  case inr.inr.inr.inr.inl =>
    have hf : fetch s = some (.lextWord s.ext 0) := by simp [fetch, fetchWindow, h, b, decodeAt]
    rw [step_of_fetch hf, h]; simp only [exec, execLextWord, (st_of_active h (by decide)).2]; exact readStep_overrun hr _ _
  case inr.inr.inr.inr.inr.inl =>
    cases ho : tokO s.tok
    · have hf : fetch s = some (.ofs8 0) := by simp [fetch, fetchWindow, h, b, decodeAt, ho]
      rw [step_of_fetch hf, h]; exact readStep_overrun hr _ _
    · have hf : fetch s = some (.ofs16 0 0) := by simp [fetch, fetchWindow, h, b, decodeAt, ho]
      rw [step_of_fetch hf, h]; simp only [exec, execOfs16, (st_of_active h (by decide)).2]; exact readStep_overrun hr _ _
  case inr.inr.inr.inr.inr.inr.inl =>
    have hf : fetch s = some (.ofs16 s.ext 0) := by simp [fetch, fetchWindow, h, b, decodeAt]
    rw [step_of_fetch hf, h]; simp only [exec, execOfs16, (st_of_active h (by decide)).2]; exact readStep_overrun hr _ _
  case inr.inr.inr.inr.inr.inr.inr.inl =>
    have hf : fetch s = some (.mextShort 0) := by simp [fetch, fetchWindow, h, b, decodeAt]
    rw [step_of_fetch hf, h]; exact readStep_overrun hr _ _
  case inr.inr.inr.inr.inr.inr.inr.inr.inl =>
    have hf : fetch s = some (.mextByte 0) := by simp [fetch, fetchWindow, h, b, decodeAt]
    rw [step_of_fetch hf, h]; simp only [exec, execMextByte, (st_of_active h (by decide)).2]; exact readStep_overrun hr _ _
  case inr.inr.inr.inr.inr.inr.inr.inr.inr.inl =>
    have hf : fetch s = some .mextEod := by simp [fetch, fetchWindow, h, b, decodeAt]
    rw [step_of_fetch hf, h]; simp only [exec, execMextEod, (st_of_active h (by decide)).2]; exact readStep_overrun hr _ _
  case inr.inr.inr.inr.inr.inr.inr.inr.inr.inr =>
    by_cases hz : s.ext = 0#8
    · have hf : fetch s = some .mextEod := by simp [fetch, fetchWindow, h, b, decodeAt, hz]
      rw [step_of_fetch hf, h]; simp only [exec, execMextEod, (st_of_active h (by decide)).2]; exact readStep_overrun hr _ _
    · have hf : fetch s = some (.mextWord s.ext 0) := by simp [fetch, fetchWindow, h, b, decodeAt, hz]
      rw [step_of_fetch hf, h]; simp only [exec, execMextWord, (st_of_active h (by decide)).2]; exact readStep_overrun hr _ _

theorem step_token (h : s.active = .token) :
    step s = readStep s .token fun u =>
      if tokL (s.readIn s.rp.toNat) = 7 then
        (u.setToken (s.readIn s.rp.toNat) (bidOf (s.readIn s.rp.toNat))).goto .lext
      else literalLength ((tokL (s.readIn s.rp.toNat)).setWidth 16)
        (u.setToken (s.readIn s.rp.toNat) (bidOf (s.readIn s.rp.toNat))) := by
  have h' : s.st = .token := (st_of_active h (by decide)).2
  rcases lt_or_le s.rp s.inEnd with hr | hr
  · have hf : fetch s = some (tokenInstr (tokO (s.readIn s.rp.toNat)) (tokL (s.readIn s.rp.toNat))
        (tokM (s.readIn s.rp.toNat))) := by
      simp [fetch, fetchWindow, h, decodeAt, blockByte_of_lt hr]
    rw [step_of_fetch hf, exec_tokenInstr, tokByte_fields,
      tokenMicro_read (by simp [h']) (by simp [h'])]
    by_cases h7 : tokL (s.readIn s.rp.toNat) = 7#3 <;> simp [h7, extendedToken, inlineToken]
  · rw [step_overrun hr (by simp [h]), readStep_overrun hr, h]

theorem step_lcopy (h : s.active = .lcopy) : step s = literalCopy s := by
  have h' : s.st = .lcopy := (st_of_active h (by decide)).2
  have hf : fetch s = some (tokenInstr (tokO s.tok) (tokL s.tok) (tokM s.tok)) := by
    simp [fetch, fetchWindow, h, decodeAt]
  rw [step_of_fetch hf, exec_tokenInstr, tokenMicro_lcopy h']

theorem step_mcopy (h : s.active = .mcopy) : step s = matchCopy s := by
  have h' : s.st = .mcopy := (st_of_active h (by decide)).2
  have hf : fetch s = some (tokenInstr (tokO s.tok) (tokL s.tok) (tokM s.tok)) := by
    simp [fetch, fetchWindow, h, decodeAt]
  rw [step_of_fetch hf, exec_tokenInstr, tokenMicro_mcopy h']

theorem step_lext_short (h : s.active = .lext) (hb : (s.readIn s.rp.toNat).toNat ≤ 248) :
    step s = readStep s .lext (literalLength (litShort (s.readIn s.rp.toNat))) := by
  rcases lt_or_le s.rp s.inEnd with hr | hr
  · have hf : fetch s = some (.lextShort (s.readIn s.rp.toNat)) := by
      simp [fetch, fetchWindow, h, decodeAt, blockByte_of_lt hr, hb]
    rw [step_of_fetch hf]; rfl
  · rw [step_overrun hr (by simp [h]), readStep_overrun hr, h]

theorem step_lext_word (h : s.active = .lext) (hb : (s.readIn s.rp.toNat).toNat = 249) :
    step s = readStep s .lext fun t => t.goto .lextWL := by
  have h' : s.st = .lext := (st_of_active h (by decide)).2
  rcases lt_or_le s.rp s.inEnd with hr | hr
  · have hb' : s.readIn s.rp.toNat = 249#8 := BitVec.eq_of_toNat_eq (by simpa using hb)
    have hf : fetch s = some (.lextWord (s.blockByte 1) (s.blockByte 2)) := by
      simp [fetch, fetchWindow, h, decodeAt, blockByte_of_lt hr, hb']
    rw [step_of_fetch hf]; simp [exec, execLextWord, h']
  · rw [step_overrun hr (by simp [h]), readStep_overrun hr, h]

theorem step_lext_byte (h : s.active = .lext) (hb : (s.readIn s.rp.toNat).toNat = 250) :
    step s = readStep s .lext fun t => t.goto .lextB := by
  have h' : s.st = .lext := (st_of_active h (by decide)).2
  rcases lt_or_le s.rp s.inEnd with hr | hr
  · have hb' : s.readIn s.rp.toNat = 250#8 := BitVec.eq_of_toNat_eq (by simpa using hb)
    have hf : fetch s = some (.lextByte (s.blockByte 1)) := by
      simp [fetch, fetchWindow, h, decodeAt, blockByte_of_lt hr, hb']
    rw [step_of_fetch hf]; simp [exec, execLextByte, h']
  · rw [step_overrun hr (by simp [h]), readStep_overrun hr, h]

theorem step_lext_rsvd (h : s.active = .lext) (hb : 251 ≤ (s.readIn s.rp.toNat).toNat) :
    step s = reservedStep s .lext .rsvdLext := by
  rcases lt_or_le s.rp s.inEnd with hr | hr
  · have h1 : ¬ (s.readIn s.rp.toNat).toNat ≤ 248 := by omega
    have h2 : s.readIn s.rp.toNat ≠ 250#8 := by intro e; rw [e] at hb; simp at hb
    have h3 : s.readIn s.rp.toNat ≠ 249#8 := by intro e; rw [e] at hb; simp at hb
    have hf : fetch s = some (.lextRsvd (s.readIn s.rp.toNat)) := by
      simp [fetch, fetchWindow, h, decodeAt, blockByte_of_lt hr, h1, h2, h3]
    rw [step_of_fetch hf]; rfl
  · rw [step_overrun hr (by simp [h]), reservedStep_overrun hr, h]

theorem step_lextB (h : s.active = .lextB) :
    step s = readStep s .lextB (literalLength (litByte (s.readIn s.rp.toNat))) := by
  have h' : s.st = .lextB := (st_of_active h (by decide)).2
  rcases lt_or_le s.rp s.inEnd with hr | hr
  · have hf : fetch s = some (.lextByte (s.readIn s.rp.toNat)) := by
      simp [fetch, fetchWindow, h, decodeAt, blockByte_of_lt hr]
    rw [step_of_fetch hf]; simp [exec, execLextByte, h']
  · rw [step_overrun hr (by simp [h]), readStep_overrun hr, h]

theorem step_lextWL (h : s.active = .lextWL) :
    step s = readStep s .lextWL fun t => (t.setExt (s.readIn s.rp.toNat)).goto .lextWH := by
  have h' : s.st = .lextWL := (st_of_active h (by decide)).2
  rcases lt_or_le s.rp s.inEnd with hr | hr
  · have hf : fetch s = some (.lextWord (s.readIn s.rp.toNat) (s.blockByte 1)) := by
      simp [fetch, fetchWindow, h, decodeAt, blockByte_of_lt hr]
    rw [step_of_fetch hf]; simp [exec, execLextWord, h']
  · rw [step_overrun hr (by simp [h]), readStep_overrun hr, h]

theorem step_lextWH (h : s.active = .lextWH) :
    step s = readStep s .lextWH fun t => literalLength (le16 t.ext (s.readIn s.rp.toNat)) t := by
  have h' : s.st = .lextWH := (st_of_active h (by decide)).2
  rcases lt_or_le s.rp s.inEnd with hr | hr
  · have hf : fetch s = some (.lextWord s.ext (s.readIn s.rp.toNat)) := by
      simp [fetch, fetchWindow, h, decodeAt, blockByte_of_lt hr]
    rw [step_of_fetch hf]; simp [exec, execLextWord, h']
  · rw [step_overrun hr (by simp [h]), readStep_overrun hr, h]

theorem step_ofsLo_narrow (h : s.active = .ofsLo) (ho : tokO s.tok = false) :
    step s = readStep s .ofsLo fun t => afterOffset (t.setDist (dist8 (s.readIn s.rp.toNat))) := by
  rcases lt_or_le s.rp s.inEnd with hr | hr
  · have hf : fetch s = some (.ofs8 (s.readIn s.rp.toNat)) := by
      simp [fetch, fetchWindow, h, decodeAt, blockByte_of_lt hr, ho]
    rw [step_of_fetch hf]; rfl
  · rw [step_overrun hr (by simp [h]), readStep_overrun hr, h]

theorem step_ofsLo_wide (h : s.active = .ofsLo) (ho : tokO s.tok = true) :
    step s = readStep s .ofsLo fun t => (t.setExt (s.readIn s.rp.toNat)).goto .ofsHi := by
  have h' : s.st = .ofsLo := (st_of_active h (by decide)).2
  rcases lt_or_le s.rp s.inEnd with hr | hr
  · have hf : fetch s = some (.ofs16 (s.readIn s.rp.toNat) (s.blockByte 1)) := by
      simp [fetch, fetchWindow, h, decodeAt, blockByte_of_lt hr, ho]
    rw [step_of_fetch hf]; simp [exec, execOfs16, h']
  · rw [step_overrun hr (by simp [h]), readStep_overrun hr, h]

theorem step_ofsHi (h : s.active = .ofsHi) :
    step s = readStep s .ofsHi fun t => afterOffset (t.setDist (dist16 t.ext (s.readIn s.rp.toNat))) := by
  have h' : s.st = .ofsHi := (st_of_active h (by decide)).2
  rcases lt_or_le s.rp s.inEnd with hr | hr
  · have hf : fetch s = some (.ofs16 s.ext (s.readIn s.rp.toNat)) := by
      simp [fetch, fetchWindow, h, decodeAt, blockByte_of_lt hr]
    rw [step_of_fetch hf]; simp [exec, execOfs16, h']
  · rw [step_overrun hr (by simp [h]), readStep_overrun hr, h]

theorem step_mext_short (h : s.active = .mext) (hb : (s.readIn s.rp.toNat).toNat ≤ 237) :
    step s = readStep s .mext (matchLength (matchShort (s.readIn s.rp.toNat))) := by
  rcases lt_or_le s.rp s.inEnd with hr | hr
  · have hf : fetch s = some (.mextShort (s.readIn s.rp.toNat)) := by
      simp [fetch, fetchWindow, h, decodeAt, blockByte_of_lt hr, hb]
    rw [step_of_fetch hf]; rfl
  · rw [step_overrun hr (by simp [h]), readStep_overrun hr, h]

theorem step_mext_word (h : s.active = .mext) (hb : (s.readIn s.rp.toNat).toNat = 238) :
    step s = readStep s .mext fun t => t.goto .mextWL := by
  have h' : s.st = .mext := (st_of_active h (by decide)).2
  rcases lt_or_le s.rp s.inEnd with hr | hr
  · have hb' : s.readIn s.rp.toNat = 238#8 := BitVec.eq_of_toNat_eq (by simpa using hb)
    by_cases hz : s.blockByte 1 = 0#8 ∧ s.blockByte 2 = 0#8
    · have hf : fetch s = some .mextEod := by
        simp [fetch, fetchWindow, h, decodeAt, blockByte_of_lt hr, hb', hz]
      rw [step_of_fetch hf]; simp [exec, execMextEod, h']
    · have hf : fetch s = some (.mextWord (s.blockByte 1) (s.blockByte 2)) := by
        simp [fetch, fetchWindow, h, decodeAt, blockByte_of_lt hr, hb', hz]
      rw [step_of_fetch hf]; simp [exec, execMextWord, h']
  · rw [step_overrun hr (by simp [h]), readStep_overrun hr, h]

theorem step_mext_byte (h : s.active = .mext) (hb : (s.readIn s.rp.toNat).toNat = 239) :
    step s = readStep s .mext fun t => t.goto .mextB := by
  have h' : s.st = .mext := (st_of_active h (by decide)).2
  rcases lt_or_le s.rp s.inEnd with hr | hr
  · have hb' : s.readIn s.rp.toNat = 239#8 := BitVec.eq_of_toNat_eq (by simpa using hb)
    have hf : fetch s = some (.mextByte (s.blockByte 1)) := by
      simp [fetch, fetchWindow, h, decodeAt, blockByte_of_lt hr, hb']
    rw [step_of_fetch hf]; simp [exec, execMextByte, h']
  · rw [step_overrun hr (by simp [h]), readStep_overrun hr, h]

theorem step_mext_rsvd (h : s.active = .mext) (hb : 240 ≤ (s.readIn s.rp.toNat).toNat) :
    step s = reservedStep s .mext .rsvdMext := by
  rcases lt_or_le s.rp s.inEnd with hr | hr
  · have h1 : ¬ (s.readIn s.rp.toNat).toNat ≤ 237 := by omega
    have h2 : s.readIn s.rp.toNat ≠ 238#8 := by intro e; rw [e] at hb; simp at hb
    have h3 : s.readIn s.rp.toNat ≠ 239#8 := by intro e; rw [e] at hb; simp at hb
    have hf : fetch s = some (.mextRsvd (s.readIn s.rp.toNat)) := by
      simp [fetch, fetchWindow, h, decodeAt, blockByte_of_lt hr, h1, h2, h3]
    rw [step_of_fetch hf]; rfl
  · rw [step_overrun hr (by simp [h]), reservedStep_overrun hr, h]

theorem step_mextB (h : s.active = .mextB) :
    step s = readStep s .mextB (matchLength (matchByte (s.readIn s.rp.toNat))) := by
  have h' : s.st = .mextB := (st_of_active h (by decide)).2
  rcases lt_or_le s.rp s.inEnd with hr | hr
  · have hf : fetch s = some (.mextByte (s.readIn s.rp.toNat)) := by
      simp [fetch, fetchWindow, h, decodeAt, blockByte_of_lt hr]
    rw [step_of_fetch hf]; simp [exec, execMextByte, h']
  · rw [step_overrun hr (by simp [h]), readStep_overrun hr, h]

theorem step_mextWL (h : s.active = .mextWL) :
    step s = readStep s .mextWL fun t => (t.setExt (s.readIn s.rp.toNat)).goto .mextWH := by
  have h' : s.st = .mextWL := (st_of_active h (by decide)).2
  rcases lt_or_le s.rp s.inEnd with hr | hr
  · by_cases hz : s.readIn s.rp.toNat = 0#8 ∧ s.blockByte 1 = 0#8
    · have hf : fetch s = some .mextEod := by
        simp [fetch, fetchWindow, h, decodeAt, blockByte_of_lt hr, hz]
      rw [step_of_fetch hf]; simp [exec, execMextEod, h', hz.1]
    · have hf : fetch s = some (.mextWord (s.readIn s.rp.toNat) (s.blockByte 1)) := by
        simp [fetch, fetchWindow, h, decodeAt, blockByte_of_lt hr, hz]
      rw [step_of_fetch hf]; simp [exec, execMextWord, h']
  · rw [step_overrun hr (by simp [h]), readStep_overrun hr, h]

/-- A little-endian pair is zero exactly when both bytes are. -/
theorem le16_eq_zero (lo hi : Byte) : le16 lo hi = 0 ↔ lo = 0#8 ∧ hi = 0#8 := by
  constructor
  · intro h
    have h' := congrArg BitVec.toNat h
    rw [le16_toNat] at h'
    have h0 : (0 : Half).toNat = 0 := rfl
    rw [h0] at h'
    exact ⟨BitVec.eq_of_toNat_eq (by simpa using (by omega : lo.toNat = 0)),
      BitVec.eq_of_toNat_eq (by simpa using (by omega : hi.toNat = 0))⟩
  · rintro ⟨rfl, rfl⟩; rfl

theorem step_mextWH (h : s.active = .mextWH) :
    step s = readStep s .mextWH fun t => matchWord (le16 t.ext (s.readIn s.rp.toNat)) t := by
  have h' : s.st = .mextWH := (st_of_active h (by decide)).2
  rcases lt_or_le s.rp s.inEnd with hr | hr
  · by_cases hz : s.ext = 0#8 ∧ s.readIn s.rp.toNat = 0#8
    · have hf : fetch s = some .mextEod := by
        simp [fetch, fetchWindow, h, decodeAt, blockByte_of_lt hr, hz]
      have hw : le16 s.advanceIn.ext (s.readIn s.rp.toNat) = 0 := (le16_eq_zero _ _).2 hz
      rw [step_of_fetch hf, readStep_next hr, hw, matchWord_zero]
      simp only [exec, execMextEod, h', readStep_next hr]; rfl
    · have hf : fetch s = some (.mextWord s.ext (s.readIn s.rp.toNat)) := by
        simp [fetch, fetchWindow, h, decodeAt, blockByte_of_lt hr, hz]
      rw [step_of_fetch hf]; simp [exec, execMextWord, h']
  · rw [step_overrun hr (by simp [h]), readStep_overrun hr, h]

end Sys2Proof.Machine
end

