-- ==== Sys2Proof/Laws/Run.lean ====
section
/-! SUPPORT. Laws of runs: one micro-step at a time, runs in sequence, and runs that stand still. -/

namespace Sys2Proof.Machine

open Sys2Proof

variable {s t u : State} {k n : Nat}

theorem run_zero (s : State) : run 0 s = .next s := rfl

/-- A run goes on from the state its first micro-step commits. -/
theorem run_succ_of_next (h : step s = .next t) : run (k + 1) s = run k t := by
  have h' : Sys2Proof.core.step s = .next t := h
  show Host.Core.run Sys2Proof.core (k + 1) s = _
  simp only [Host.Core.run]
  rw [h']

/-- A run stops where a micro-step stops. -/
theorem run_succ_of_fault {f : Fault} (h : step s = .fault f) : run (k + 1) s = .fault f := by
  have h' : Sys2Proof.core.step s = .fault f := h
  show Host.Core.run Sys2Proof.core (k + 1) s = _
  simp only [Host.Core.run]
  rw [h']; rfl

theorem run_one (h : step s = .next t) : run 1 s = .next t := run_succ_of_next h

/-- Runs in sequence add. -/
theorem run_add_of_next (h : run k s = .next t) : run (k + n) s = run n t := by
  induction k generalizing s with
  | zero => cases h; rw [Nat.zero_add]
  | succ k ih =>
    rw [Nat.add_right_comm]
    cases hs : step s with
    | next u => rw [run_succ_of_next hs] at h ⊢; exact ih h
    | fault f => rw [run_succ_of_fault hs] at h; cases h
    | refused r =>
      have h' : Sys2Proof.core.step s = .refused r := hs
      have h2 : Host.Core.run Sys2Proof.core (k + 1) s = .next t := h
      simp only [Host.Core.run] at h2
      rw [h'] at h2; cases h2

/-- A state that steps to itself stays. -/
theorem run_of_fixed (h : step s = .next s) (k : Nat) : run k s = .next s := by
  induction k with
  | zero => rfl
  | succ k ih => rw [run_succ_of_next h]; exact ih

/-- A run in IDLE, DONE or FAULT stands still (44_control.md R220). -/
theorem run_quiet (h : s.st = .idle ∨ s.st = .done ∨ s.st = .fault) (k : Nat) : run k s = .next s :=
  run_of_fixed (step_quiet h) k

end Sys2Proof.Machine
end

