-- ==== Sys2Proof/Tests/Slice0.lean ====
section
/-! SUPPORT. The model's own tests: ill-formed terms, words written out from the encoding tables, single micro-steps
with values from spec/95_test_vectors.md, and a witness for the hypotheses of every statement. -/

namespace Sys2Proof.Tests

open Sys2Proof Sys2Proof.Machine

/-! ### WellFormed: each check refuses a term -/

theorem test_wf_refuses_inline_match_field15 :
    [Instr.tokL0M false 15, .tokL1M false 15, .tokL2M false 15, .tokL3M false 15, .tokL4M true 15, .tokL5M true 15,
      .tokL6M true 15, .tokLXM true 15].all (fun i => !i.wf) = true := by decide

theorem test_wf_refuses_lextShort_249 : (Instr.lextShort 249).wf = false := by decide

theorem test_wf_refuses_lextRsvd_250 : (Instr.lextRsvd 250).wf = false := by decide

theorem test_wf_refuses_mextShort_238 : (Instr.mextShort 238).wf = false := by decide

theorem test_wf_refuses_mextRsvd_239 : (Instr.mextRsvd 239).wf = false := by decide

theorem test_wf_refuses_zero_match_word : (Instr.mextWord 0 0).wf = false := by decide

theorem test_wf_accepts_the_edges :
    [Instr.tokL0M false 14, .tokLXM true 0, .lextShort 248, .lextRsvd 251, .lextRsvd 255, .mextShort 237, .mextRsvd 240,
      .mextWord 1 0, .mextWord 0 1, .mextWord 0xFF 0xFF].all Instr.wf = true := by decide

/-! ### Decoding: one word for every constructor, bit by bit from 30_encoding.md R91, R93, R94, R97 and the table of
95_test_vectors.md section 2.1 -/

theorem test_decode_tokens_inline :
    decode .token [0b00001110#8] = .ok (.tokL0M false 14, []) ∧
    decode .token [0b10000000#8] = .ok (.tokL0M true 0, []) ∧
    decode .token [0b00010000#8] = .ok (.tokL1M false 0, []) ∧
    decode .token [0b10100111#8] = .ok (.tokL2M true 7, []) ∧
    decode .token [0b00110101#8] = .ok (.tokL3M false 5, []) ∧
    decode .token [0b01001001#8] = .ok (.tokL4M false 9, []) ∧
    decode .token [0b11010010#8] = .ok (.tokL5M true 2, []) ∧
    decode .token [0b11101110#8] = .ok (.tokL6M true 14, []) ∧
    decode .token [0b11110000#8] = .ok (.tokLXM true 0, []) := ⟨rfl, rfl, rfl, rfl, rfl, rfl, rfl, rfl, rfl⟩

theorem test_decode_tokens_extended :
    decode .token [0b10001111#8] = .ok (.tokL0MX true, []) ∧
    decode .token [0b00011111#8] = .ok (.tokL1MX false, []) ∧
    decode .token [0b00101111#8] = .ok (.tokL2MX false, []) ∧
    decode .token [0b00111111#8] = .ok (.tokL3MX false, []) ∧
    decode .token [0b11001111#8] = .ok (.tokL4MX true, []) ∧
    decode .token [0b01011111#8] = .ok (.tokL5MX false, []) ∧
    decode .token [0b11101111#8] = .ok (.tokL6MX true, []) ∧
    decode .token [0b01111111#8] = .ok (.tokLXMX false, []) := ⟨rfl, rfl, rfl, rfl, rfl, rfl, rfl, rfl⟩

theorem test_decode_offsets :
    decode (.ofs false) [0b01110000#8, 0xAA] = .ok (.ofs8 0x70, [0xAA]) ∧
    decode (.ofs true) [0b11111110#8, 0b11111111#8] = .ok (.ofs16 0xFE 0xFF, []) := ⟨rfl, rfl⟩

theorem test_decode_literal_extensions :
    decode .litExt [0b00000000#8] = .ok (.lextShort 0, []) ∧
    decode .litExt [0b11111000#8] = .ok (.lextShort 248, []) ∧
    decode .litExt [0b11111001#8, 0x34, 0x12, 0x77] = .ok (.lextWord 0x34 0x12, [0x77]) ∧
    decode .litExt [0b11111010#8, 0x05] = .ok (.lextByte 5, []) ∧
    decode .litExt [0b11111011#8] = .ok (.lextRsvd 251, []) ∧
    decode .litExt [0b11111111#8] = .ok (.lextRsvd 255, []) := ⟨rfl, rfl, rfl, rfl, rfl, rfl⟩

theorem test_decode_match_extensions :
    decode .matchExt [0b11101101#8] = .ok (.mextShort 237, []) ∧
    decode .matchExt [0b11101110#8, 0x05, 0x00] = .ok (.mextWord 5 0, []) ∧
    decode .matchExt [0b11101110#8, 0x00, 0x01] = .ok (.mextWord 0 1, []) ∧
    decode .matchExt [0b11101110#8, 0x00, 0x00, 0x10] = .ok (.mextEod, [0x10]) ∧
    decode .matchExt [0b11101111#8, 0x2C] = .ok (.mextByte 0x2C, []) ∧
    decode .matchExt [0b11110000#8] = .ok (.mextRsvd 240, []) := ⟨rfl, rfl, rfl, rfl, rfl, rfl⟩

/-- Bytes that hold no whole instruction are refused by name. -/
theorem test_decode_refuses_by_name :
    decode .token [] = .error (.noByte .token) ∧
    decode (.ofs true) [0xFE] = .error (.truncated (.ofs true) 2) ∧
    decode .litExt [0xF9, 0x34] = .error (.truncated .litExt 3) ∧
    decode .litExt [0xFA] = .error (.truncated .litExt 2) ∧
    decode .matchExt [0xEE, 0x00] = .error (.truncated .matchExt 3) ∧
    decode .matchExt [0xEF] = .error (.truncated .matchExt 2) := ⟨rfl, rfl, rfl, rfl, rfl, rfl⟩

/-- Table words, numbered with the first byte lowest. -/
theorem test_table_words :
    [decodeTableWord 8 0x2F, decodeTableWord 16 0xFF00, decodeTableWord 24 0x1234F9, decodeTableWord 16 0x05FA,
      decodeTableWord 8 0xFB, decodeTableWord 24 0x0005EE, decodeTableWord 24 0x0000EE, decodeTableWord 16 0x2CEF,
      decodeTableWord 8 0xF0, decodeTableWord 8 0xEE]
    = [some (.tokL2MX false), some (.ofs16 0x00 0xFF), some (.lextWord 0x34 0x12), some (.lextByte 5),
      some (.lextRsvd 251), some (.mextWord 5 0), some .mextEod, some (.mextByte 0x2C),
      some (.mextRsvd 240), some .mextEod] := by decide

/-! ### Single micro-steps -/

/-- Bytes at rising addresses. -/
def place : Nat → List Byte → Mem
  | _, [] => []
  | a, b :: bs => (a, b) :: place (a + 1) bs

/-- An engine in a state of a run under the conventions of 95_test_vectors.md, checked mode: the bytes stand at
`rp = 0x100`, `in_end` is after them, two output bytes `61 62` are written. -/
def eng (f : Fsm) (bs : List Byte) : State :=
  { State.reset with
    st := f
    chk := true
    rp := 0x100
    inEnd := BitVec.ofNat 32 (0x100 + bs.length)
    org := 0x1000
    wp := 0x1002
    outEnd := 0x11000
    rp0 := 0x100
    inMem := place 0x100 bs
    outMem := [(0x1000, 0x61), (0x1001, 0x62)] }

/-- Fields of the state after one micro-step. -/
def after (s : State) (g : State → α) : Option α :=
  match step s with
  | .next t => some (g t)
  | _ => none

/-- The reason a micro-step stops. -/
def stops (s : State) : Option Fault :=
  match step s with
  | .fault f => some f
  | _ => none

/-- What a TOKEN micro-step leaves: rp, TOKEN's two fields, LLEN, the next state. -/
def tokView (t : State) : Word × Byte × BitVec 4 × Half × Fsm := (t.rp, t.tok, t.bid, t.llen, t.st)

-- BID and the next state of 95_test_vectors.md 2.1 and 40_dispatch.md R127 to R142
theorem test_tokL0M : after (eng .token [0x0E]) tokView = some (0x101, 0x0E, 0, 0, .ofsLo) := by decide
theorem test_tokL0MX : after (eng .token [0x8F]) tokView = some (0x101, 0x8F, 1, 0, .ofsLo) := by decide
theorem test_tokL1M : after (eng .token [0x10]) tokView = some (0x101, 0x10, 2, 1, .lcopy) := by decide
theorem test_tokL1MX : after (eng .token [0x1F]) tokView = some (0x101, 0x1F, 3, 1, .lcopy) := by decide
theorem test_tokL2M : after (eng .token [0xA7]) tokView = some (0x101, 0xA7, 4, 2, .lcopy) := by decide
theorem test_tokL2MX : after (eng .token [0x2F]) tokView = some (0x101, 0x2F, 5, 2, .lcopy) := by decide
theorem test_tokL3M : after (eng .token [0x35]) tokView = some (0x101, 0x35, 6, 3, .lcopy) := by decide
theorem test_tokL3MX : after (eng .token [0x3F]) tokView = some (0x101, 0x3F, 7, 3, .lcopy) := by decide
theorem test_tokL4M : after (eng .token [0x49]) tokView = some (0x101, 0x49, 8, 4, .lcopy) := by decide
theorem test_tokL4MX : after (eng .token [0xCF]) tokView = some (0x101, 0xCF, 9, 4, .lcopy) := by decide
theorem test_tokL5M : after (eng .token [0xD2]) tokView = some (0x101, 0xD2, 10, 5, .lcopy) := by decide
theorem test_tokL5MX : after (eng .token [0x5F]) tokView = some (0x101, 0x5F, 11, 5, .lcopy) := by decide
theorem test_tokL6M : after (eng .token [0xEE]) tokView = some (0x101, 0xEE, 12, 6, .lcopy) := by decide
theorem test_tokL6MX : after (eng .token [0xEF]) tokView = some (0x101, 0xEF, 13, 6, .lcopy) := by decide
theorem test_tokLXM : after { eng .token [0xF0] with llen := 9 } tokView = some (0x101, 0xF0, 14, 9, .lext) := by decide
theorem test_tokLXMX : after (eng .token [0x7F]) tokView = some (0x101, 0x7F, 15, 0, .lext) := by decide

/-- A token read at in_end: STATUS 0x114F (95 section 2.1). -/
theorem test_token_in_overrun : after (eng .token []) statusWord = some 0x114F := by decide

-- 95_test_vectors.md 1.1 and 2.2
theorem test_lextShort : after (eng .lext [0xF8]) (fun t => (t.rp, t.llen, t.st)) = some (0x101, 255, .lcopy) := by decide
theorem test_lextByte_first : after (eng .lext [0xFA, 0x05, 0]) (fun t => (t.rp, t.llen, t.st)) = some (0x101, 0, .lextB) := by decide
theorem test_lextByte : after (eng .lextB [0x05, 0]) (fun t => (t.rp, t.llen, t.st)) = some (0x101, 261, .lcopy) := by decide
theorem test_lextWord_low : after (eng .lextWL [0x34, 0x12]) (fun t => (t.rp, t.ext, t.st)) = some (0x101, 0x34, .lextWH) := by decide
theorem test_lextWord_high :
    after { eng .lextWH [0x12] with ext := 0x34 } (fun t => (t.rp, t.llen, t.st)) = some (0x101, 4660, .lcopy) := by decide
theorem test_lextWord_zero : after (eng .lextWH [0x00]) (fun t => (t.rp, t.llen, t.st)) = some (0x101, 0, .ofsLo) := by decide
/-- F4: RSVD_LEXT, rp stays at the reserved byte. -/
theorem test_lextRsvd : after (eng .lext [0xFB]) (fun t => (t.rp, statusWord t)) = some (0x100, 0x244F) := by decide
theorem test_lextRsvd_unchecked :
    stops { eng .lext [0xFF] with chk := false } = some (.unspecified .rsvdLext) := by decide

-- 95_test_vectors.md 1.3 and 2.4
theorem test_ofs8 :
    after { eng .ofsLo [0x70] with tok := 0x70 } (fun t => (t.rp, t.dist, t.mlen, t.st)) = some (0x101, 144, 3, .mcopy) := by decide
theorem test_ofs8_extended :
    after { eng .ofsLo [0x00] with tok := 0x0F } (fun t => (t.rp, t.dist, t.mlen, t.st)) = some (0x101, 256, 0, .mext) := by decide
theorem test_ofs16_low :
    after { eng .ofsLo [0xFE, 0xFF] with tok := 0xA0 } (fun t => (t.rp, t.ext, t.dist, t.st)) = some (0x101, 0xFE, 0, .ofsHi) := by decide
/-- Value 0x0000 is distance 65536: no sign, no wrap. -/
theorem test_ofs16_high :
    after { eng .ofsHi [0x00] with tok := 0x80 } (fun t => (t.rp, t.dist, t.mlen, t.st)) = some (0x101, 65536, 3, .mcopy) := by decide

-- 95_test_vectors.md 1.2 and 2.5
theorem test_mextShort : after (eng .mext [0xED]) (fun t => (t.rp, t.mlen, t.st)) = some (0x101, 255, .mcopy) := by decide
theorem test_mextByte : after (eng .mextB [0x00, 0]) (fun t => (t.rp, t.mlen, t.st)) = some (0x101, 256, .mcopy) := by decide
theorem test_mextByte_first : after (eng .mext [0xEF, 0, 0]) (fun t => (t.rp, t.mlen, t.st)) = some (0x101, 0, .mextB) := by decide
theorem test_mextWord : after { eng .mextWH [0x00] with ext := 0x01 } (fun t => (t.rp, t.mlen, t.st)) = some (0x101, 1, .mcopy) := by decide
theorem test_mextWord_high_only :
    after (eng .mextWH [0x01]) (fun t => (t.rp, t.mlen, t.st)) = some (0x101, 256, .mcopy) := by decide
theorem test_mextEod : after (eng .mextWH [0x00]) (fun t => (t.rp, t.wp, statusWord t)) = some (0x101, 0x1002, 0x2E) := by decide
theorem test_mextEod_first : after (eng .mext [0xEE, 0, 0]) (fun t => (t.rp, t.st)) = some (0x101, .mextWL) := by decide
/-- F5: RSVD_MEXT. -/
theorem test_mextRsvd : after (eng .mext [0xF0]) (fun t => (t.rp, statusWord t)) = some (0x100, 0x954F) := by decide
theorem test_mextRsvd_unchecked :
    stops { eng .mext [0xF0] with chk := false } = some (.unspecified .rsvdMext) := by decide

-- 95_test_vectors.md 3.2, micro-steps 2 and 3
theorem test_literal_copy :
    after { eng .lcopy [0x63] with llen := 2, tok := 0x24, bid := 4 }
      (fun t => (t.rp, t.wp, t.llen, t.st)) = some (0x101, 0x1003, 1, .lcopy) := by decide
theorem test_literal_copy_byte (h : 0x1002 < Config.outSize) :
    after { eng .lcopy [0x63] with llen := 2, tok := 0x24, bid := 4 } (fun t => t.readOut 0x1002) = some 0x63 :=
  congrArg some (State.readOut_writeOut_same (eng .lcopy []) 0x63 h)
theorem test_last_literal_copy :
    after { eng .lcopy [0x63] with llen := 1, tok := 0x24, bid := 4 } (fun t => (t.llen, t.st)) = some (0, .ofsLo) := by decide
/-- Priority: the read is tested before the write (95 section 2.3). -/
theorem test_literal_priority :
    after { eng .lcopy [] with llen := 3, outEnd := 0x1000 } statusWord = some 0x614F := by decide
-- 95_test_vectors.md 3.2, micro-steps 5 and 11
theorem test_match_copy :
    after { eng .mcopy [] with mlen := 7, dist := 2, tok := 0x24, bid := 4 }
      (fun t => (t.rp, t.wp, t.mlen, t.st)) = some (0x100, 0x1003, 6, .mcopy) := by decide
theorem test_match_copy_byte (h : 0x1002 < Config.outSize) :
    after { eng .mcopy [] with mlen := 7, dist := 2, tok := 0x24, bid := 4 } (fun t => t.readOut 0x1002) = some 0x61 :=
  congrArg some (State.readOut_writeOut_same (eng .mcopy []) 0x61 h)
theorem test_last_match_copy :
    after { eng .mcopy [] with mlen := 1, dist := 1 } (fun t => (t.mlen, t.st)) = some (0, .token) := by decide
/-- Priority: the origin is tested before the write (95 section 2.6). -/
theorem test_match_priority :
    after { eng .mcopy [] with mlen := 3, dist := 3, outEnd := 0x1000 } statusWord = some 0xD34F := by decide
theorem test_match_out_overrun :
    after { eng .mcopy [] with mlen := 4, dist := 2, outEnd := 0x1002 } (fun t => (t.mlen, statusWord t)) = some (4, 0xD24F) := by decide
theorem test_sentinel_one_byte_short : after (eng .mextWH []) statusWord = some 0xC14F := by decide

/-! ### The host's view -/

-- 95_test_vectors.md 2.7
theorem test_reset_status_and_id : readReg State.reset .status = 0 ∧ readReg State.reset .id = 0x4C5A5331 := by decide
theorem test_start_status :
    readReg (programRun State.reset 0x100 0x105 0x1000 0x11000 1) .status = 0x11 := by decide
theorem test_start_keeps_rp_and_sets_wp :
    (fun t => (t.rp, t.wp, t.chk, t.ie)) (programRun State.reset 0x100 0x105 0x1000 0x11000 7) = (0x100, 0x1000, true, true) := by
  decide
theorem test_irq_after_fault : after { eng .mcopy [] with mlen := 3, dist := 3, ie := true } irq = some true := by decide
theorem test_busy_ctrl_write_takes_ie_only :
    (fun t => (t.chk, t.ie, t.st)) (writeReg (eng .mext []) .ctrl 5) = (true, true, .mext) := by decide

/-- While `rst` is held a START is ignored and nothing steps; released, the engine waits in IDLE and takes a START
(70_reset_and_hazards.md R280). -/
theorem test_reset_is_a_level :
    (let held := resetAction (eng .mext [0xF0])
     writeReg held .ctrl 1 = held ∧ writeReg held .inPtr 7 = held ∧ after held (fun t => t.st) = some .idle ∧
       (resetRelease held).st = .idle ∧ (writeReg (resetRelease held) .ctrl 1).st = .token) ∧
    after { eng .mext [0xF0] with rst := true } (fun t => t.st) = some .mext := by decide

/-- Before BUSY is seen as 0 a host read shows the byte of before the run or the newest; after it, the newest
(20_memory.md R76, 93_implementation_defined.md U15). -/
theorem test_host_read_shows_old_or_new (h : 0x1000 < Config.outSize) :
    let s : State := { eng .mext [] with stale := [[(0x1000, 0x11)]] }
    (hostReadOut s 0x1000 = .ok 0x61 ∨ hostReadOut s 0x1000 = .ok 0x11) ∧
      hostReadOut { eng .done [] with stale := [] } 0x1000 = .ok 0x61 := by
  have hx : outExists (0x1000 : Word).toNat = true := decide_eq_true h
  refine ⟨?_, ?_⟩
  · rcases List.mem_cons.1 (shownOut_mem { eng .mext [] with stale := [[(0x1000, 0x11)]] }) with e | e
    · exact .inl (by simp only [hostReadOut, hx, if_true, e]; rfl)
    · exact .inr (by simp only [hostReadOut, hx, if_true, List.mem_singleton.1 e]; rfl)
  · simp only [hostReadOut, hx, if_true, shownOut_of_seen]; rfl

/-- `withFetchWord` places an instruction where the very next micro-step reads it. -/
theorem test_withFetchWord_from_reset :
    after (State.reset.withFetchWord 8 0x35) tokView = some (1, 0x35, 6, 3, .lcopy) ∧
    after (State.reset.withFetchWord 24 0x1234F9) (fun t => (t.rp, t.st)) = some (1, .lextWL) ∧
    after (State.reset.withFetchWord 16 0xFF00) (fun t => (t.ext, t.st)) = some (0, .ofsHi) ∧
    after (State.reset.withFetchWord 8 0xEE) (fun t => (t.rp, t.st)) = some (1, .mextWL) := by decide

/-! ### The block layer, on the spec's programs -/

-- 95_test_vectors.md 3.2 and 1.5
theorem test_p2_decompresses :
    decompress [0x24, 0x61, 0x62, 0xFE, 0x0F, 0x00, 0xEE, 0x00, 0x00]
      = some [0x61, 0x62, 0x61, 0x62, 0x61, 0x62, 0x61, 0x62, 0x61] := by decide
theorem test_p1_decompresses : decompress [0x0F, 0x00, 0xEE, 0x00, 0x00] = some [] := by decide
-- 95_test_vectors.md 3.4: a word-form match length below 3
theorem test_p4_assembles :
    (seqRecord [0x41, 0x42] 2 2).bytes ++ (eodRecord []).bytes
      = [0x2F, 0x41, 0x42, 0xFE, 0xEE, 0x02, 0x00, 0x0F, 0x00, 0xEE, 0x00, 0x00] := by decide
theorem test_p6_has_no_expansion : decompress [0x00, 0xFF, 0x0F, 0x00, 0xEE, 0x00, 0x00] = none := by decide

/-! ### Witnesses: every statement's hypotheses are met together -/

theorem small_fits {n : Nat} (h : n < 2 ^ 17) : n < 2 ^ Config.addrW := Nat.lt_of_lt_of_le h pow17_le_addrW

/-- An engine whose output range is the one address every platform has. -/
def eng0 (f : Fsm) (bs : List Byte) : State := { eng f bs with org := 0, wp := 0, outEnd := 1, outMem := [] }

/-- `rst` is released in the engines of the tests and after reset. -/
theorem test_witness_released : (eng .token []).rst = false ∧ (eng0 .token []).rst = false ∧ State.reset.rst = false := by
  decide

theorem test_witness_DecodeInvertsEncode : (Instr.mextWord 0 1).wf = true ∧ (Instr.tokLXM true 14).wf = true := by decide

theorem test_witness_EncodeInvertsDecode :
    decode .litExt [0xF9, 0x34, 0x12, 0x77] = .ok (.lextWord 0x34 0x12, [0x77]) := rfl

theorem test_witness_TokenBytesSelectBehaviours : (14 : BitVec 4) ≠ 15 := by decide

theorem test_witness_StepRunsDecodedInstruction_first_bytes :
    ((eng .token [0x24, 0x61, 0x62]).st = .token ∧ decode .token [(eng .token [0x24, 0x61, 0x62]).blockByte 0,
      (eng .token [0x24, 0x61, 0x62]).blockByte 1, (eng .token [0x24, 0x61, 0x62]).blockByte 2]
      = .ok (.tokL2M false 4, [0x61, 0x62])) ∧
    decode .litExt [(eng .lext [0xF9, 1, 0]).blockByte 0, (eng .lext [0xF9, 1, 0]).blockByte 1,
      (eng .lext [0xF9, 1, 0]).blockByte 2] = .ok (.lextWord 1 0, []) ∧
    decode (.ofs (tokO (eng .ofsLo [0xFE, 0xFF, 0]).tok)) [(eng .ofsLo [0xFE, 0xFF, 0]).blockByte 0,
      (eng .ofsLo [0xFE, 0xFF, 0]).blockByte 1, (eng .ofsLo [0xFE, 0xFF, 0]).blockByte 2] = .ok (.ofs8 0xFE, [0xFF, 0]) ∧
    decode .matchExt [(eng .mext [0xEE, 0, 0]).blockByte 0, (eng .mext [0xEE, 0, 0]).blockByte 1,
      (eng .mext [0xEE, 0, 0]).blockByte 2] = .ok (.mextEod, []) := ⟨⟨rfl, rfl⟩, rfl, rfl, rfl⟩

theorem test_witness_StepRunsDecodedInstruction_later_bytes :
    [(eng .lextB [5]).st, (eng .lextWL [0x34]).st, (eng .lextWH [0x12]).st, (eng .ofsHi [0xFF]).st, (eng .mextB [0]).st]
      = [Fsm.lextB, .lextWL, .lextWH, .ofsHi, .mextB] ∧
    decode .matchExt [0xEE, (eng .mextWL [5, 0]).blockByte 0, (eng .mextWL [5, 0]).blockByte 1] = .ok (.mextWord 5 0, []) ∧
    decode .matchExt [0xEE, (eng .mextWH [0]).ext, (eng .mextWH [0]).blockByte 0] = .ok (.mextEod, []) ∧
    decode .token [({ eng .lcopy [] with tok := 0x24 } : State).tok] = .ok (.tokL2M false 4, []) ∧
    decode .token [({ eng .mcopy [] with tok := 0x7F } : State).tok] = .ok (.tokLXMX false, []) ∧
    State.reset.st = .idle ∧ (resetAction (eng .mext [])).rst = true ∧ ({ eng .mext [] with rst := true } : State).rst = true :=
  ⟨rfl, rfl, rfl, rfl, rfl, rfl, rfl, rfl⟩

/-- TOKEN with a byte to read: the hypotheses of InlineTokensRead and ExtendedTokensRead. -/
theorem test_witness_token_reads :
    (eng .token [0x24]).st = .token ∧ (eng .token [0x24]).rp < (eng .token [0x24]).inEnd := by decide

theorem test_witness_TokenStateReadsAndRoutes :
    tokL ((eng .token [0x7F]).readIn (eng .token [0x7F]).rp.toNat) = 7 ∧
    tokL ((eng .token [0x0F]).readIn (eng .token [0x0F]).rp.toNat) = 0 ∧
    tokL ((eng .token [0x6F]).readIn (eng .token [0x6F]).rp.toNat) = 6 ∧
    (eng .token []).inEnd ≤ (eng .token []).rp ∧
    after (eng .lextB [5]) (fun t => t.st) = some .lcopy ∧
    isBusy State.reset = false ∧ (7 : Word).getLsbD 0 = true ∧
    after { eng .mcopy [] with mlen := 1, dist := 2 } (fun t => t.st) = some .token := by decide

theorem test_witness_LiteralExtensionsResolve :
    (eng .lext [0]).rp < (eng .lext [0]).inEnd ∧ (248 : Byte).toNat ≤ 248 ∧ (0 : Byte).toNat ≤ 248 ∧
    [(eng .lext [0]).st, (eng .lextB [0]).st, (eng .lextWL [0]).st, (eng .lextWH [0]).st]
      = [Fsm.lext, .lextB, .lextWL, .lextWH] ∧
    (eng .lextWH [0]).rp < (eng .lextWH [0]).inEnd := by decide

/-- Both modes, at the lowest and the highest reserved byte. -/
theorem test_witness_ReservedLiteralExtensionRaises :
    (eng .lext [251]).st = .lext ∧ (eng .lext [251]).rp < (eng .lext [251]).inEnd ∧ (eng .lext [251]).chk = true ∧
    ({ eng .lext [255] with chk := false } : State).chk = false ∧
    251 ≤ ((eng .lext [251]).readIn (eng .lext [251]).rp.toNat).toNat ∧
    251 ≤ ((eng .lext [255]).readIn (eng .lext [255]).rp.toNat).toNat := by decide

/-- LCOPY with one, with two and with the most literals to copy. -/
theorem test_witness_TokensCopyOneLiteral :
    (Instr.tokLXMX true).space = .token ∧
    [1, 2, 65535].all (fun n => let s : State := { eng .lcopy [0x61] with llen := n }
      s.st == .lcopy && s.llen != 0 && decide (s.rp < s.inEnd) && decide (s.wp < s.outEnd)) = true := by decide

/-- A literal that OUT has an address for on every platform. -/
theorem test_witness_TokensCopyOneLiteral_byte :
    (let s : State := { eng0 .lcopy [0x61] with llen := 1 }
     s.st = .lcopy ∧ s.llen ≠ 0 ∧ s.rp < s.inEnd ∧ s.wp < s.outEnd) ∧ (eng0 .lcopy [0x61]).wp.toNat < Config.outSize :=
  ⟨by decide, outSize_pos⟩

/-- Three literals to copy, at no, at one and at all micro-steps. -/
theorem test_witness_LiteralRunCopiesForward :
    let s : State := { eng .lcopy [0x61, 0x62, 0x63] with llen := 3 }
    s.st = .lcopy ∧ s.llen ≠ 0 ∧ 0 ≤ s.llen.toNat ∧ 1 ≤ s.llen.toNat ∧ 3 ≤ s.llen.toNat ∧
      s.rp.toNat + s.llen.toNat ≤ s.inEnd.toNat ∧ s.wp.toNat + s.llen.toNat ≤ s.outEnd.toNat := by decide

theorem test_witness_LiteralRunCopiesForward_byte :
    (let s : State := { eng0 .lcopy [0x61] with llen := 1 }
     s.st = .lcopy ∧ s.llen ≠ 0 ∧ 1 ≤ s.llen.toNat ∧ s.rp.toNat + s.llen.toNat ≤ s.inEnd.toNat ∧
       s.wp.toNat + s.llen.toNat ≤ s.outEnd.toNat) ∧ (eng0 .lcopy [0x61]).wp.toNat + 0 < Config.outSize :=
  ⟨by decide, outSize_pos⟩

theorem test_witness_ZeroLiteralLengthCopiesNothing :
    (tokL ((eng .token [0x0F]).readIn (eng .token [0x0F]).rp.toNat) = 0 ∧
      (eng .token [0x0F]).rp < (eng .token [0x0F]).inEnd) ∧
    (eng .lextWH [0]).rp < (eng .lextWH [0]).inEnd ∧ (eng .lextWH [0]).ext = 0 ∧
    (eng .lextWH [0]).readIn (eng .lextWH [0]).rp.toNat = 0 := by decide

/-- OFS_LO and OFS_HI with an extended and with an inline match, one-byte and two-byte. -/
theorem test_witness_offsets_resolve :
    (eng .ofsLo [0]).rp < (eng .ofsLo [0]).inEnd ∧ (eng .ofsHi [0]).rp < (eng .ofsHi [0]).inEnd ∧
    tokM ({ eng .ofsLo [0] with tok := 0x0F } : State).tok = 15 ∧
    tokM ({ eng .ofsLo [0] with tok := 0x0E } : State).tok ≠ 15 ∧
    tokO ({ eng .ofsLo [0] with tok := 0x0F } : State).tok = false ∧
    tokO ({ eng .ofsLo [0] with tok := 0x8F } : State).tok = true ∧
    tokM ({ eng .ofsHi [0] with tok := 0x8F } : State).tok = 15 ∧
    tokM ({ eng .ofsHi [0] with tok := 0x80 } : State).tok ≠ 15 := by decide

/-- A step that writes dist, at both ends of its range, and one that does not. -/
theorem test_witness_ChangedDistanceIsInRange :
    after { eng .ofsHi [0xFF] with tok := 0x80, ext := 0xFF } (fun t => t.dist) = some 1 ∧
    after { eng .ofsHi [0x00] with tok := 0x80 } (fun t => t.dist) = some 65536 ∧
    after (eng .mext [0]) (fun t => t.dist) = some 0 := by decide

theorem test_witness_MatchExtensionsResolve :
    (eng .mext [0]).rp < (eng .mext [0]).inEnd ∧ (237 : Byte).toNat ≤ 237 ∧
    [(eng .mext [0]).st, (eng .mextB [0]).st, (eng .mextWL [0]).st, (eng .mextWH [0]).st]
      = [Fsm.mext, .mextB, .mextWL, .mextWH] ∧
    0 < (eng .mextWH [1]).ext.toNat + 256 * (1 : Byte).toNat ∧
    0 < ({ eng .mextWH [0] with ext := 1 } : State).ext.toNat + 256 * (0 : Byte).toNat := by decide

theorem test_witness_ReservedMatchExtensionRaises :
    (eng .mext [240]).st = .mext ∧ (eng .mext [240]).rp < (eng .mext [240]).inEnd ∧ (eng .mext [240]).chk = true ∧
    ({ eng .mext [255] with chk := false } : State).chk = false ∧
    240 ≤ ((eng .mext [240]).readIn (eng .mext [240]).rp.toNat).toNat := by decide

theorem test_witness_SentinelEndsTheRun :
    [(eng .mext [0xEE, 0, 0]).st, (eng .mextWL [0, 0]).st, (eng .mextWH [0]).st] = [Fsm.mext, .mextWL, .mextWH] ∧
    (eng .mext [0xEE, 0, 0]).rp < (eng .mext [0xEE, 0, 0]).inEnd ∧ (eng .mextWL [0, 0]).rp < (eng .mextWL [0, 0]).inEnd ∧
    (eng .mextWH [0]).rp < (eng .mextWH [0]).inEnd := by decide

/-- The run ends by the sentinel, by a fault, and by reading at in_end in either mode. -/
theorem test_witness_SentinelIsOnlyNormalEnd :
    after (eng .mextWH [0]) (fun t => t.st) = some .done ∧ isBusy (eng .mextWH [0]) = true ∧
    after (eng .mext [0xF0]) (fun t => t.st) = some .fault ∧
    isBusy (eng .mext []) = true ∧ (eng .mext []).st ≠ .mcopy ∧ (eng .mext []).inEnd ≤ (eng .mext []).rp ∧
    (eng .mext []).chk = true ∧ ({ eng .mext [] with chk := false } : State).chk = false := by decide

/-- MCOPY at the origin exactly, with one and with more bytes to copy. -/
theorem test_witness_TokensCopyOneMatchByte :
    (Instr.tokL0M false 0).space = .token ∧
    [1, 2, 65535].all (fun n => let s : State := { eng .mcopy [] with mlen := n, dist := 2 }
      s.st == .mcopy && s.mlen != 0 && decide (s.org.toNat + s.dist.toNat ≤ s.wp.toNat) && decide (s.wp < s.outEnd)) = true := by
  decide

/-- An overlapping match of 7 at distances 1 and 2. -/
theorem test_witness_match_runs :
    [1, 2].all (fun d => let s : State := { eng .mcopy [] with mlen := 7, dist := d }
      s.st == .mcopy && s.mlen != 0 && decide (1 ≤ s.dist.toNat) && decide (s.org.toNat + s.dist.toNat ≤ s.wp.toNat)
        && decide (s.wp.toNat + s.mlen.toNat ≤ s.outEnd.toNat)) = true := by decide

/-- The bytes of these matches are read back on a platform whose OUT reaches past them: 95_test_vectors.md takes
`out_end = 0x11000`. -/
theorem test_witness_match_runs_bytes (h : 0x11000 ≤ Config.outSize) :
    ∀ i : Nat, i < 7 → ({ eng .mcopy [] with mlen := 7, dist := 2 } : State).wp.toNat + i < Config.outSize := by
  intro i hi
  have e : ({ eng .mcopy [] with mlen := 7, dist := 2 } : State).wp.toNat = 0x1002 := rfl
  omega

/-- A match byte that every platform with more than one OUT byte has an address for. -/
theorem test_witness_TokensCopyOneMatchByte_byte (h : 1 < Config.outSize) :
    (let s : State := { eng0 .mcopy [] with wp := 1, outEnd := 2, mlen := 1, dist := 1 }
     s.st = .mcopy ∧ s.mlen ≠ 0 ∧ s.org.toNat + s.dist.toNat ≤ s.wp.toNat ∧ s.wp < s.outEnd ∧
       s.wp.toNat + s.mlen.toNat ≤ s.outEnd.toNat) ∧ (1 : Word).toNat < Config.outSize := ⟨by decide, h⟩

theorem test_witness_OriginTestFailsOnlyFirst :
    after { eng .mcopy [] with mlen := 2, dist := 2 } (fun t => t.st) = some .mcopy ∧
    (let s : State := { eng .mcopy [] with mlen := 2, dist := 3 }
     s.st = .mcopy ∧ s.wp.toNat < s.org.toNat + s.dist.toNat) ∧
    after (eng .mext [0xF0]) (fun t => (t.st, t.fcode)) = some (.fault, 5) ∧ (eng .mext [0xF0]).st ≠ .mcopy := by decide

theorem test_witness_quiet_states : [State.reset.st, (eng .done []).st, (eng .fault []).st] = [Fsm.idle, .done, .fault] := by
  decide

theorem test_witness_EveryRunEndsWithinBound : (eng .token []).st = .token := by decide

/-- The observation of a run that raises `Unspecified` is of the state before the event; the block ends before the
token's offset. -/
theorem test_observe_run :
    (observeRun 2 { eng .token [0x0F] with chk := false }).map (fun o => (o.kind, o.rp, o.out, o.regs.length))
      = some (.unspecified .inOverrun, 0x101, [0x61, 0x62], 13) ∧
    (observeRun 2 (eng .token [0x0F])).map (fun o => o.kind) = some (.fault 1 7) ∧
    observeRun 1 (eng .token [0x0F]) = none := by decide

/-- One block, two output origins (95_test_vectors.md section 1.6). -/
theorem test_witness_RunIsFunctionOfTheBlock :
    let s : State := { eng .token [0x24, 0x61, 0x62, 0xFE, 0x0F, 0x00, 0xEE, 0x00, 0x00] with wp := 0x1000, outEnd := 0x1100 }
    let t : State := { s with org := 0x3000, wp := 0x3000, outEnd := 0x3100, outMem := [] }
    (s.st = .token ∧ t.st = .token ∧ s.wp = s.org ∧ t.wp = t.org ∧ s.org ≠ t.org ∧
      s.outEnd.toNat - s.org.toNat = t.outEnd.toNat - t.org.toNat) ∧
    ∀ a : Nat, s.rp.toNat ≤ a → a < s.inEnd.toNat → s.readIn a = t.readIn a :=
  ⟨by decide, fun _ _ _ => rfl⟩

/-- On every platform: the empty block's run (program P1) with no capacity, from two origins. -/
theorem test_witness_RunIsFunctionOfTheBlock_capacity :
    let s : State := { eng .token [0x0F, 0x00, 0xEE, 0x00, 0x00] with org := 0, wp := 0, outEnd := 0 }
    let t : State := { s with org := 5, wp := 5 }
    (s.st = .token ∧ t.st = .token ∧ s.wp = s.org ∧ t.wp = t.org ∧ s.rst = false ∧ t.rst = false ∧
      s.outEnd.toNat - s.org.toNat = t.outEnd.toNat - t.org.toNat) ∧
    s.outEnd.toNat ≤ Config.outSize ∧ t.outEnd.toNat ≤ Config.outSize :=
  ⟨by decide, Nat.zero_le _, Nat.zero_le _⟩

/-- A record with a match, and the EOD record, each at the start of an output range. -/
theorem test_witness_RecordRunsToItsExpansion :
    let r := seqRecord [0x61, 0x62] 2 7
    let s : State := { eng .token r.bytes with wp := 0x1000 }
    s.st = .token ∧ r.wf = true ∧ s.org.toNat ≤ s.wp.toNat ∧ s.holds s.rp.toNat r.bytes ∧
      s.rp.toNat + r.bytes.length ≤ s.inEnd.toNat ∧ s.wp.toNat + r.lits.length + r.mlen ≤ s.outEnd.toNat ∧
      r.expand s.produced = some [0x61, 0x62, 0x61, 0x62, 0x61, 0x62, 0x61, 0x62, 0x61] := by
  unfold State.holds; decide

theorem test_witness_RecordRunsToItsExpansion_eod :
    let r := eodRecord [0x78, 0x79, 0x7A]
    let s : State := eng .token r.bytes
    s.st = .token ∧ r.wf = true ∧ s.org.toNat ≤ s.wp.toNat ∧ s.holds s.rp.toNat r.bytes ∧
      s.rp.toNat + r.bytes.length ≤ s.inEnd.toNat ∧ s.wp.toNat + r.lits.length + r.mlen ≤ s.outEnd.toNat ∧
      r.expand s.produced = some [0x61, 0x62, 0x78, 0x79, 0x7A] := by
  unfold State.holds; decide

/-- On every platform: an EOD record with one literal, at address 0. -/
theorem test_witness_RecordRunsToItsExpansion_capacity :
    let r := eodRecord [0x78]
    let s := eng0 .token r.bytes
    (s.st = .token ∧ r.wf = true ∧ s.org.toNat ≤ s.wp.toNat ∧ s.holds s.rp.toNat r.bytes ∧ s.rst = false ∧
      s.rp.toNat + r.bytes.length ≤ s.inEnd.toNat ∧ s.wp.toNat + r.lits.length + r.mlen ≤ s.outEnd.toNat ∧
      r.expand s.produced = some [0x78]) ∧ s.wp.toNat + r.lits.length + r.mlen ≤ Config.outSize :=
  ⟨by unfold State.holds; decide, outSize_pos⟩

/-- Program P4 with a byte after it, which is not read (95_test_vectors.md section 3.4). -/
theorem test_witness_BlockDecompresses :
    let block : List Byte := [0x2F, 0x41, 0x42, 0xFE, 0xEE, 0x02, 0x00, 0x0F, 0x00, 0xEE, 0x00, 0x00, 0x10]
    let s : State := { eng .token block with wp := 0x1000 }
    (takeBlock block.length block = some ([seqRecord [0x41, 0x42] 2 2, eodRecord []], [0x10]) ∧
      expandAll [] [seqRecord [0x41, 0x42] 2 2, eodRecord []] = some [0x41, 0x42, 0x41, 0x42]) ∧
    (s.st = .token ∧ s.wp = s.org ∧ s.holds s.rp.toNat block ∧ s.rp.toNat + (block.length - 1) ≤ s.inEnd.toNat ∧
      s.org.toNat + 4 ≤ s.outEnd.toNat) ∧ s.outEnd.toNat < 2 ^ Config.addrW :=
  ⟨by decide, by unfold State.holds; decide, small_fits (by decide)⟩

/-- On every platform: a block of one record, its one byte at address 0. -/
theorem test_witness_BlockDecompresses_capacity :
    let block : List Byte := [0x1F, 0x41, 0x00, 0xEE, 0x00, 0x00, 0x10]
    let s := eng0 .token block
    (takeBlock block.length block = some ([eodRecord [0x41]], [0x10]) ∧ expandAll [] [eodRecord [0x41]] = some [0x41]) ∧
    (s.rst = false ∧ s.st = .token ∧ s.wp = s.org ∧ s.holds s.rp.toNat block ∧
      s.rp.toNat + (block.length - 1) ≤ s.inEnd.toNat ∧ s.org.toNat + 1 ≤ s.outEnd.toNat) ∧
    s.outEnd.toNat < 2 ^ Config.addrW ∧ s.org.toNat + 1 ≤ Config.outSize :=
  ⟨by decide, by unfold State.holds; decide, small_fits (by decide), outSize_pos⟩

theorem test_witness_records :
    (seqRecord [0x61, 0x62] 2 7).wf = true ∧ takeRecord ((seqRecord [0x61, 0x62] 2 7).bytes ++ [0x0F])
      = some (seqRecord [0x61, 0x62] 2 7, [0x0F]) := by decide

/-- The lengths and distances of the assembly notation at the ends of their ranges. -/
theorem test_witness_CanonicalRecordsAreWellFormed :
    ([] : List Byte).length ≤ 65535 ∧ 1 ≤ 65536 ∧ 65536 ≤ 65536 ∧ 1 ≤ 1 ∧ 1 ≤ 65535 ∧ 65535 ≤ 65535 := by decide

/-- R105's forms where they meet, for the literal length, the match length and the distance. -/
theorem test_witness_CanonicalRecords_forms :
    [0, 6, 7, 255, 256, 511, 512, 65535].map canonLits
      = [(0, none), (6, none), (7, some (.lextShort 0)), (7, some (.lextShort 248)), (7, some (.lextByte 0)),
        (7, some (.lextByte 255)), (7, some (.lextWord 0 2)), (7, some (.lextWord 0xFF 0xFF))] ∧
    [1, 2, 3, 17, 18, 255, 256, 511, 512, 65535].map canonMatch
      = [(15, some (.mextWord 1 0)), (15, some (.mextWord 2 0)), (0, none), (14, none), (15, some (.mextShort 0)),
        (15, some (.mextShort 237)), (15, some (.mextByte 0)), (15, some (.mextByte 255)), (15, some (.mextWord 0 2)),
        (15, some (.mextWord 0xFF 0xFF))] ∧
    [1, 256, 257, 65536].map (fun d => (seqRecord [] d 3).ofs)
      = [.ofs8 0xFF, .ofs8 0x00, .ofs16 0xFF 0xFE, .ofs16 0x00 0x00] := by decide

/-- A step that advances both cursors. -/
theorem test_witness_steps :
    after { eng .lcopy [0x61] with llen := 1 } (fun t => (t.rp, t.wp)) = some (0x101, 0x1003) := by decide

/-- Every event is pending in some checked state. -/
theorem test_witness_events :
    [pendingEvent (eng .lextB []), pendingEvent { eng .lcopy [0x61] with outEnd := 0x1002 },
      pendingEvent { eng .mcopy [] with dist := 2, outEnd := 0x1002 }, pendingEvent { eng .mcopy [] with dist := 3 },
      pendingEvent (eng .lext [251]), pendingEvent (eng .mext [240])]
      = [some .inOverrun, some .outOverrun, some .outOverrun, some .origin, some .rsvdLext, some .rsvdMext] ∧
    (eng .lext [251]).chk = true := by decide

/-- The conditions of EventsRaisedAsTabled's and EventPriorityIsPseudocodeOrder's rows, at their boundaries. -/
theorem test_witness_event_rows :
    ((eng .lextB []).st ≠ .idle ∧ (eng .lextB []).st ≠ .mcopy ∧ (eng .lextB []).inEnd ≤ (eng .lextB []).rp) ∧
    (let s : State := { eng .lcopy [0x61] with outEnd := 0x1002 }
     s.st = .lcopy ∧ s.rp < s.inEnd ∧ s.outEnd ≤ s.wp) ∧
    (let s : State := { eng .mcopy [] with dist := 2, outEnd := 0x1002 }
     s.st = .mcopy ∧ s.org.toNat + s.dist.toNat ≤ s.wp.toNat ∧ s.outEnd ≤ s.wp) ∧
    (let s : State := { eng .mcopy [] with dist := 3 }
     s.st = .mcopy ∧ s.wp.toNat < s.org.toNat + s.dist.toNat) ∧
    (let s := eng .lext [251]
     s.st = .lext ∧ s.rp < s.inEnd ∧ 251 ≤ (s.readIn s.rp.toNat).toNat) ∧
    (let s := eng .mext [240]
     s.st = .mext ∧ s.rp < s.inEnd ∧ 240 ≤ (s.readIn s.rp.toNat).toNat) ∧
    (eng .ofsHi [0]).st ∈ [Fsm.token, .lextB, .lextWL, .lextWH, .ofsLo, .ofsHi, .mextB, .mextWL, .mextWH] := by decide

theorem test_witness_unchecked_stop : stops { eng .lextB [] with chk := false } = some (.unspecified .inOverrun) := by decide

/-- The invariant holds in a state in the middle of a run, where a step commits, on every platform. -/
theorem test_witness_invariant : State.Inv { eng0 .lcopy [] with
    llen := 1
    tok := 0x1F
    bid := 3
    inEnd := 0x101
    inMem := [(0, 0x61)]
    stale := [[(0, 0x11)], []] } where
  inMem_wf := rfl
  inMem_below := by simp [Mem.below, inSize_pos]
  outMem_wf := rfl
  outMem_below := rfl
  stale_wf := by simp [Mem.below, outSize_pos]; decide
  rp_fits := small_fits (by decide)
  inEnd_fits := small_fits (by decide)
  org_fits := small_fits (by decide)
  wp_fits := small_fits (by decide)
  outEnd_fits := small_fits (by decide)
  rst_held := by decide
  bid_eq := by decide
  no_fault_record := by decide
  fault_record := by decide
  literal_ext := by decide
  wide_offset := by decide
  match_ext := by decide
  literal_pending := by decide
  match_pending := by decide
  distance := by decide
  origin := by decide

theorem test_witness_FaultCodesAreTheFive :
    after { eng .mcopy [] with mlen := 7, dist := 2, tok := 0x24, bid := 4 } (fun t => t.st) = some .mcopy ∧
    (eng .mcopy []).fcode.toNat ≤ 5 := by decide

/-- A host action from the invariant state, and from a state that is no fault. -/
theorem test_witness_host_actions :
    hostStep (.writeReg 4 0x00 4) { eng .mcopy [] with mlen := 7, dist := 2, tok := 0x24, bid := 4 }
      = .next { eng .mcopy [] with mlen := 7, dist := 2, tok := 0x24, bid := 4, ie := true } ∧
    hostStep (.setReset true) (eng .mcopy []) = .next (resetAction (eng .mcopy [])) ∧ (eng .mcopy []).st ≠ .fault := ⟨rfl, rfl, by decide⟩

theorem test_witness_modes :
    after { eng .lextB [5] with chk := false } (fun t => t.llen) = some 261 ∧ pendingEvent (eng .lextB [5]) = none ∧
    after { eng .lextB [5] with chk := false } (fun t => t.st) = some .lcopy ∧
    ({ eng .lextB [5] with chk := false } : State).st ≠ .fault := by decide

/-- irq rises by a run's end and by a CTRL write after it, and falls by START and by IE = 0. -/
theorem test_witness_IrqIsALevel :
    irq { eng .mextWH [0] with ie := true } = false ∧ after { eng .mextWH [0] with ie := true } irq = some true ∧
    isBusy (eng .mextWH [0]) = true ∧ irq { eng .done [] with ie := true } = true ∧
    (eng .done []).st = .done ∧ (4 : Word).getLsbD 0 = false ∧ (4 : Word).getLsbD 2 = true ∧
    isBusy (eng .done []) = false ∧ (1 : Word).getLsbD 0 = true ∧ (3 : Word).getLsbD 2 = false := by decide

/-- Two IN memories that hold the same byte at rp and differ elsewhere. -/
theorem test_witness_UnreadInputIsIrrelevant :
    State.readIn { eng .mext [0xEE, 0, 0] with inMem := place 0x100 [0xEE, 5, 0] } 0x100 = (eng .mext [0xEE, 0, 0]).readIn 0x100 ∧
    place 0x100 [0xEE, 5, 0] ≠ (eng .mext [0xEE, 0, 0]).inMem := by decide

/-- A frame's premise: exec answers a next state, for an instruction of every space. -/
theorem test_witness_InstructionsKeepTheRest :
    (∃ t : State, exec (.tokL2M false 4) { eng .lcopy [0x61] with llen := 1 } = .next t) ∧
    (∃ t : State, exec (.tokL2M false 4) { eng .mcopy [] with mlen := 1, dist := 1 } = .next t) ∧
    (∃ t : State, exec (.tokL2M false 4) (eng .token [0x24]) = .next t) ∧
    (∃ t : State, exec (.ofs8 0xFE) (eng .ofsLo [0xFE]) = .next t) ∧
    (∃ t : State, exec (.ofs16 0xFE 0xFF) (eng .ofsHi [0xFF]) = .next t) ∧
    (∃ t : State, exec (.lextByte 5) (eng .lextB [5]) = .next t) ∧
    (∃ t : State, exec (.mextRsvd 240) (eng .mext [240]) = .next t) :=
  ⟨⟨_, rfl⟩, ⟨_, rfl⟩, ⟨_, rfl⟩, ⟨_, rfl⟩, ⟨_, rfl⟩, ⟨_, rfl⟩, ⟨_, rfl⟩⟩

/-- A step that changes an OUT byte, and the accesses of each kind. -/
theorem test_witness_accesses :
    pendingEvent { eng0 .lcopy [0x77] with llen := 1, outMem := [(0, 0)] } = none ∧
    accesses { eng .lcopy [0x77] with llen := 1 } = [.inRead 0x100, .outWrite 0x1002] ∧
    accesses { eng .mcopy [] with mlen := 1, dist := 2 } = [.outRead 0x1000, .outWrite 0x1002] ∧
    1 ≤ ({ eng .mcopy [] with mlen := 1, dist := 2 } : State).dist.toNat := by decide

theorem test_witness_accesses_change :
    after { eng0 .lcopy [0x77] with llen := 1, outMem := [(0, 0)] } (fun t => t.readOut 0) = some 0x77 ∧
    ({ eng0 .lcopy [0x77] with llen := 1, outMem := [(0, 0)] } : State).readOut 0 = 0 :=
  ⟨congrArg some (State.readOut_writeOut_same { eng0 .lcopy [0x77] with outMem := [(0, 0)] } 0x77 outSize_pos), rfl⟩

/-- The premises about BUSY and START, on both sides. -/
theorem test_witness_register_writes :
    isBusy (eng .done []) = false ∧ isBusy (eng .mext []) = true ∧ (7 : Word).getLsbD 0 = true ∧ (6 : Word).getLsbD 0 = false := by
  decide

theorem test_witness_StatusReadsItsFields :
    (readReg (eng .mcopy []) .status).getLsbD 6 = false ∧ (readReg (eng .fault []) .status).getLsbD 6 = true := by decide

theorem test_witness_ResultReadsBytesProduced : (eng .mcopy []).org.toNat ≤ (eng .mcopy []).wp.toNat := by decide

/-- Offsets at the ends of the rules' ranges, and the accesses that stop. -/
theorem test_witness_RegisterAccessRules :
    (0x34 : Word).toNat % 4 = 0 ∧ 0x34 ≤ (0x34 : Word).toNat ∧ (0xFFFFFFFC : Word).toNat % 4 = 0 ∧
    (2 : Nat) ≠ 4 ∧ (0x06 : Word).toNat % 4 ≠ 0 ∧ (0x04 : Word).toNat % 4 = 0 ∧ isBusy (eng .mext []) = true ∧
    (0x00 : Word) ≠ 0x04 ∧ isBusy (eng .done []) = false := by decide

/-- Every clause of the host's memory accesses, on every platform at address 0: allowed and forbidden placements
(at, before and after the run's ranges), reads with one and with two OUT memories to show, the end seen by STATUS and
by `irq`. -/
theorem test_witness_HostMemoryAccessesRespectTheRun :
    ((0 : Word).toNat < Config.inSize ∧ (0 : Word).toNat < Config.outSize) ∧
    (isBusy (eng .done []) = false ∧
      (isBusy (eng .mext []) = true ∧ (0 : Word) < (eng .mext []).rp0 ∧ (0 : Word) < (eng .mext []).org) ∧
      (let s : State := { eng0 .mext [] with rp0 := 0, inEnd := 0, outEnd := 0 }
       isBusy s = true ∧ s.inEnd ≤ 0 ∧ s.outEnd ≤ 0) ∧
      (let s : State := { eng0 .mext [1] with rp0 := 0 }
       isBusy s = true ∧ s.rp0 ≤ 0 ∧ (0 : Word) < s.inEnd ∧ s.org ≤ 0 ∧ (0 : Word) < s.outEnd)) ∧
    (State.reset.stale = [] ∧ (start State.reset 1).stale = [[]] ∧
      hostStep (.readReg 4 0x04) (eng .done []) = .next (seeEnd (eng .done []))) ∧
    (irq { eng .done [] with ie := true } = true ∧ irq (eng .done []) = false) :=
  ⟨⟨inSize_pos, outSize_pos⟩, by decide, ⟨rfl, rfl, rfl⟩, by decide⟩

/-- An address without a byte: the first one past the space, on every platform whose space leaves one. -/
theorem test_witness_HostMemoryAccesses_no_byte (hi : Config.inSize < 2 ^ 32) (ho : Config.outSize < 2 ^ 32) :
    Config.inSize ≤ (BitVec.ofNat 32 Config.inSize).toNat ∧ Config.outSize ≤ (BitVec.ofNat 32 Config.outSize).toNat := by
  rw [BitVec.toNat_ofNat, BitVec.toNat_ofNat, Nat.mod_eq_of_lt hi, Nat.mod_eq_of_lt ho]
  exact ⟨Nat.le_refl _, Nat.le_refl _⟩

/-- The host's sequence for program P1 from reset with the block placed (95_test_vectors.md section 3.1). -/
theorem test_witness_HostProgramsARun :
    let block : List Byte := [0x0F, 0x00, 0xEE, 0x00, 0x00]
    let s : State := { State.reset with inMem := place 0x100 block }
    (isBusy s = false ∧ (1 : Word).getLsbD 0 = true ∧ takeBlock block.length block = some ([eodRecord []], []) ∧
      expandAll [] [eodRecord []] = some [] ∧ s.holds 0x100 block ∧ 0x100 + block.length ≤ (0x105 : Word).toNat) ∧
    (0x100 : Word).toNat < 2 ^ Config.addrW ∧ (0x105 : Word).toNat < 2 ^ Config.addrW ∧
    (0x1000 : Word).toNat < 2 ^ Config.addrW ∧ (0x11000 : Word).toNat < 2 ^ Config.addrW :=
  ⟨by unfold State.holds; decide, small_fits (by decide), small_fits (by decide), small_fits (by decide),
    small_fits (by decide)⟩

/-- On every platform: a block of one byte, to address 0. -/
theorem test_witness_HostProgramsARun_capacity :
    let block : List Byte := [0x1F, 0x41, 0x00, 0xEE, 0x00, 0x00]
    let s : State := { State.reset with inMem := place 0x100 block }
    (s.rst = false ∧ isBusy s = false ∧ takeBlock block.length block = some ([eodRecord [0x41]], []) ∧
      expandAll [] [eodRecord [0x41]] = some [0x41] ∧ s.holds 0x100 block ∧ 0x100 + block.length ≤ (0x106 : Word).toNat) ∧
    (0 : Word).toNat + 1 ≤ (1 : Word).toNat ∧ (0 : Word).toNat + 1 ≤ Config.outSize :=
  ⟨by unfold State.holds; decide, by decide, outSize_pos⟩

end Sys2Proof.Tests
end

section
/-! PROOF. The step as the transition function of 44_control.md R221: each row of `commitRow` by the operations of the
meanings, then the agreement, FSM state by FSM state. -/

namespace Sys2Proof.Machine

open Sys2Proof

variable {s t : State} {e : Event} {f : Fsm} {u : State → State}

theorem ne_zero_of_toNat_pos {n : Half} (h : 0 < n.toNat) : n ≠ 0 := by bv_omega

theorem litShort_ne_zero (b : Byte) : litShort b ≠ 0 := ne_zero_of_toNat_pos (by rw [litShort_toNat]; omega)

theorem litByte_ne_zero (b : Byte) : litByte b ≠ 0 := ne_zero_of_toNat_pos (by rw [litByte_toNat]; omega)

theorem matchInline_ne_zero (m : BitVec 4) : matchInline m ≠ 0 :=
  ne_zero_of_toNat_pos (by rw [matchInline_toNat]; omega)

theorem matchShort_ne_zero (b : Byte) : matchShort b ≠ 0 := ne_zero_of_toNat_pos (by rw [matchShort_toNat]; omega)

theorem matchByte_ne_zero (b : Byte) : matchByte b ≠ 0 := ne_zero_of_toNat_pos (by rw [matchByte_toNat]; omega)

theorem transition_of_none (h : pendingEvent s = none) : transition s = .next (commitRow s) := by
  simp only [transition, h]

theorem transition_of_some (h : pendingEvent s = some e) : transition s = raise s s.st e := by
  simp only [transition, h]; rfl

/-- A row that reads a byte and has no other test is a `readStep`. -/
theorem transition_eq_readStep (hf : s.st = f)
    (hp : pendingEvent s = if s.inEnd ≤ s.rp then some .inOverrun else none) (hc : commitRow s = u s.advanceIn) :
    transition s = readStep s f u := by
  subst hf
  rcases lt_or_le s.rp s.inEnd with hr | hr
  · rw [if_neg (BitVec.not_le.2 hr)] at hp
    rw [transition_of_none hp, hc, readStep_next hr]
  · rw [if_pos hr] at hp
    rw [transition_of_some hp, readStep_overrun hr]

/-- A row that reads a reserved byte is a `reservedStep`. -/
theorem transition_eq_reservedStep (hf : s.st = f)
    (hp : pendingEvent s = if s.inEnd ≤ s.rp then some .inOverrun else some e) :
    transition s = reservedStep s f e := by
  subst hf
  rcases lt_or_le s.rp s.inEnd with hr | hr
  · rw [if_neg (BitVec.not_le.2 hr)] at hp
    rw [transition_of_some hp, reservedStep_raise hr]
  · rw [if_pos hr] at hp
    rw [transition_of_some hp, reservedStep_overrun hr]

theorem commitRow_token (h : s.active = .token) :
    commitRow s = if tokL (s.readIn s.rp.toNat) = 7 then
        (s.advanceIn.setToken (s.readIn s.rp.toNat) (bidOf (s.readIn s.rp.toNat))).goto .lext
      else literalLength ((tokL (s.readIn s.rp.toNat)).setWidth 16)
        (s.advanceIn.setToken (s.readIn s.rp.toNat) (bidOf (s.readIn s.rp.toNat))) := by
  simp only [commitRow, h]
  split_ifs with h7 h0
  · rfl
  · rw [h0]; rfl
  · rw [literalLength_pos (by bv_omega)]; rfl

theorem commitRow_lextWH (h : s.active = .lextWH) :
    commitRow s = literalLength (le16 s.ext (s.readIn s.rp.toNat)) s.advanceIn := by
  simp only [commitRow, h]
  split_ifs with h0
  · rw [h0]; rfl
  · rw [literalLength_pos h0]; rfl

theorem commitRow_lcopy (h : s.active = .lcopy) :
    commitRow s = literalLength (s.llen - 1)
      (s.advanceIn.writeOut s.wp.toNat (s.readIn s.rp.toNat)).advanceOut := by
  have hst : s.st = .lcopy := (st_of_active h (by decide)).2
  simp only [commitRow, h]
  split_ifs with h1
  · rw [h1]; rfl
  · rw [literalLength_pos (by bv_omega), ← hst]; rfl

theorem commitRow_ofsLo_narrow (h : s.active = .ofsLo) (ho : tokO s.tok = false) :
    commitRow s = afterOffset (s.advanceIn.setDist (dist8 (s.readIn s.rp.toNat))) := by
  simp only [commitRow, h, ho, afterOffset]; rfl

theorem commitRow_ofsLo_wide (h : s.active = .ofsLo) (ho : tokO s.tok = true) :
    commitRow s = (s.advanceIn.setExt (s.readIn s.rp.toNat)).goto .ofsHi := by
  simp only [commitRow, h, ho]; rfl

theorem commitRow_ofsHi (h : s.active = .ofsHi) :
    commitRow s = afterOffset (s.advanceIn.setDist (dist16 s.ext (s.readIn s.rp.toNat))) := by
  simp only [commitRow, h, afterOffset]; rfl

theorem commitRow_mextWH (h : s.active = .mextWH) :
    commitRow s = matchWord (le16 s.ext (s.readIn s.rp.toNat)) s.advanceIn := by
  simp only [commitRow, h]
  split_ifs with h0
  · rw [h0]; rfl
  · rw [matchWord_pos h0]; rfl

theorem commitRow_mcopy (h : s.active = .mcopy) :
    commitRow s = countMatchByte (s.writeOut s.wp.toNat (s.readOut (matchSource s))).advanceOut := by
  have hst : s.st = .mcopy := (st_of_active h (by decide)).2
  simp only [commitRow, h]
  split_ifs with h1
  · simp only [countMatchByte, State.advanceOut_mlen, State.writeOut_mlen, h1]; rfl
  · have h0 : s.mlen - 1 ≠ 0 := by bv_omega
    simp only [countMatchByte, State.advanceOut_mlen, State.writeOut_mlen, if_neg h0, ← hst]; rfl

theorem transition_lcopy (h : s.active = .lcopy) : transition s = literalCopy s := by
  have hst : s.st = .lcopy := (st_of_active h (by decide)).2
  rcases lt_or_le s.rp s.inEnd with hr | hr
  · rcases lt_or_le s.wp s.outEnd with hw | hw
    · rw [transition_of_none (by simp [pendingEvent, h, BitVec.not_le.2 hr, BitVec.not_le.2 hw]), commitRow_lcopy h,
        literalCopy_next hr hw]
    · rw [transition_of_some (e := .outOverrun) (by simp [pendingEvent, h, BitVec.not_le.2 hr, hw]),
        literalCopy_outOverrun hr hw, hst]
  · rw [transition_of_some (e := .inOverrun) (by simp [pendingEvent, h, hr]), literalCopy_inOverrun hr, hst]

theorem transition_mcopy (h : s.active = .mcopy) : transition s = matchCopy s := by
  have hst : s.st = .mcopy := (st_of_active h (by decide)).2
  cases ho : beforeOrigin s
  · have ho' := beforeOrigin_eq_false.1 ho
    rcases lt_or_le s.wp s.outEnd with hw | hw
    · rw [transition_of_none (by simp [pendingEvent, h, ho', BitVec.not_le.2 hw]), commitRow_mcopy h,
        matchCopy_next ho hw]
    · rw [transition_of_some (e := .outOverrun) (by simp [pendingEvent, h, ho', hw]),
        matchCopy_outOverrun ho hw, hst]
  · have ho' : s.wp.toNat < s.org.toNat + s.dist.toNat := by simpa [beforeOrigin] using ho
    rw [transition_of_some (e := .origin) (by simp [pendingEvent, h, ho']), matchCopy_origin ho, hst]

theorem step_lext_eq_transition (h : s.active = .lext) : step s = transition s := by
  have hst : s.st = .lext := (st_of_active h (by decide)).2
  by_cases h1 : (s.readIn s.rp.toNat).toNat ≤ 248
  · have hp : ¬ 251 ≤ (s.readIn s.rp.toNat).toNat := by omega
    rw [step_lext_short h h1]
    refine (transition_eq_readStep hst (by simp [pendingEvent, h, hp]) ?_).symm
    simp only [commitRow, h, if_pos h1, literalLength_pos (litShort_ne_zero _)]; rfl
  by_cases h2 : (s.readIn s.rp.toNat).toNat = 249
  · rw [step_lext_word h h2]
    refine (transition_eq_readStep hst (by simp [pendingEvent, h, h2]) ?_).symm
    simp only [commitRow, h, if_neg h1, if_pos h2]; rfl
  by_cases h3 : (s.readIn s.rp.toNat).toNat = 250
  · rw [step_lext_byte h h3]
    refine (transition_eq_readStep hst (by simp [pendingEvent, h, h3]) ?_).symm
    simp only [commitRow, h, if_neg h1, if_neg h2]; rfl
  · have h4 : 251 ≤ (s.readIn s.rp.toNat).toNat := by omega
    rw [step_lext_rsvd h h4]
    exact (transition_eq_reservedStep hst (by simp [pendingEvent, h, h4])).symm

theorem step_mext_eq_transition (h : s.active = .mext) : step s = transition s := by
  have hst : s.st = .mext := (st_of_active h (by decide)).2
  by_cases h1 : (s.readIn s.rp.toNat).toNat ≤ 237
  · have hp : ¬ 240 ≤ (s.readIn s.rp.toNat).toNat := by omega
    rw [step_mext_short h h1]
    refine (transition_eq_readStep hst (by simp [pendingEvent, h, hp]) ?_).symm
    simp only [commitRow, h, if_pos h1]; rfl
  by_cases h2 : (s.readIn s.rp.toNat).toNat = 238
  · rw [step_mext_word h h2]
    refine (transition_eq_readStep hst (by simp [pendingEvent, h, h2]) ?_).symm
    simp only [commitRow, h, if_neg h1, if_pos h2]; rfl
  by_cases h3 : (s.readIn s.rp.toNat).toNat = 239
  · rw [step_mext_byte h h3]
    refine (transition_eq_readStep hst (by simp [pendingEvent, h, h3]) ?_).symm
    simp only [commitRow, h, if_neg h1, if_neg h2]; rfl
  · have h4 : 240 ≤ (s.readIn s.rp.toNat).toNat := by omega
    rw [step_mext_rsvd h h4]
    exact (transition_eq_reservedStep hst (by simp [pendingEvent, h, h4])).symm

theorem step_ofsLo_eq_transition (h : s.active = .ofsLo) : step s = transition s := by
  have hst : s.st = .ofsLo := (st_of_active h (by decide)).2
  cases ho : tokO s.tok
  · rw [step_ofsLo_narrow h ho]
    refine (transition_eq_readStep hst (by simp [pendingEvent, h]) ?_).symm
    exact commitRow_ofsLo_narrow h ho
  · rw [step_ofsLo_wide h ho]
    refine (transition_eq_readStep hst (by simp [pendingEvent, h]) ?_).symm
    exact commitRow_ofsLo_wide h ho

/-- The two readings of a micro-step agree: by instruction, and by the rows of 44_control.md R221. -/
theorem step_eq_transition (s : State) : step s = transition s := by
  cases h : s.active
  case idle | done | fault =>
    rw [step_of_active_quiet (by simp [h]), transition_of_none (by simp [pendingEvent, h])]
    simp only [commitRow, h]
  case lcopy => rw [step_lcopy h, transition_lcopy h]
  case mcopy => rw [step_mcopy h, transition_mcopy h]
  case lext => exact step_lext_eq_transition h
  case ofsLo => exact step_ofsLo_eq_transition h
  case mext => exact step_mext_eq_transition h
  all_goals
    have hst := (st_of_active h (by decide)).2
    have hp : pendingEvent s = if s.inEnd ≤ s.rp then some .inOverrun else none := by simp [pendingEvent, h]
  case token =>
    rw [step_token h]
    exact (transition_eq_readStep hst hp (commitRow_token h)).symm
  case lextB =>
    rw [step_lextB h]
    refine (transition_eq_readStep hst hp ?_).symm
    simp only [commitRow, h, literalLength_pos (litByte_ne_zero _)]; rfl
  case lextWL =>
    rw [step_lextWL h]
    refine (transition_eq_readStep hst hp ?_).symm
    simp only [commitRow, h]; rfl
  case lextWH =>
    rw [step_lextWH h]
    refine (transition_eq_readStep hst hp ?_).symm
    exact commitRow_lextWH h
  case ofsHi =>
    rw [step_ofsHi h]
    refine (transition_eq_readStep hst hp ?_).symm
    exact commitRow_ofsHi h
  case mextB =>
    rw [step_mextB h]
    refine (transition_eq_readStep hst hp ?_).symm
    simp only [commitRow, h]; rfl
  case mextWL =>
    rw [step_mextWL h]
    refine (transition_eq_readStep hst hp ?_).symm
    simp only [commitRow, h]; rfl
  case mextWH =>
    rw [step_mextWH h]
    refine (transition_eq_readStep hst hp ?_).symm
    exact commitRow_mextWH h

end Sys2Proof.Machine
end

section
/-! PROOF. What a step can do, said once: nothing, its row, or fault entry. From it the frame of a step, and that every
step keeps the invariant. -/

namespace Sys2Proof.Machine

open Sys2Proof

variable {s t : State}

/-- A state that is not quiet is acted in with `rst` released, and is busy (10_state.md R24). -/
theorem isBusy_of_active (h : s.active ≠ .idle) (h1 : s.active ≠ .done) (h2 : s.active ≠ .fault) :
    s.rst = false ∧ isBusy s = true := by
  obtain ⟨hr, hst⟩ := st_of_active rfl h
  exact ⟨hr, (isBusy_iff s).2 (hst ▸ ⟨h, h1, h2⟩)⟩

/-- What a step that answers a state can have done: nothing in a quiet state, its row in a working state with no
event pending, or fault entry in checked mode. -/
theorem step_next_cases (h : step s = .next t) :
    t = s ∨ (s.rst = false ∧ isBusy s = true ∧
      ((pendingEvent s = none ∧ t = commitRow s) ∨
       (s.chk = true ∧ ∃ e, pendingEvent s = some e ∧ t = s.takeFault s.st e))) := by
  by_cases hq : s.active = .idle ∨ s.active = .done ∨ s.active = .fault
  · rw [step_of_active_quiet hq] at h; cases h; exact .inl rfl
  simp only [not_or] at hq
  obtain ⟨hr, hb⟩ := isBusy_of_active hq.1 hq.2.1 hq.2.2
  refine .inr ⟨hr, hb, ?_⟩
  rw [step_eq_transition] at h
  cases hp : pendingEvent s with
  | none => rw [transition_of_none hp] at h; cases h; exact .inl ⟨rfl, rfl⟩
  | some e =>
    rw [transition_of_some hp] at h
    cases hc : s.chk
    · rw [raise_unchecked hc] at h; cases h
    · rw [raise_checked hc] at h; cases h; exact .inr ⟨rfl, e, rfl, rfl⟩

/-- What a micro-step does to everything but the FSM state and the datapath (the frame of 44_control.md R221): the
configuration and IN stay, each cursor keeps or advances by one below its bound, OUT takes at most the byte at the
write cursor. -/
structure StepFrame (s t : State) : Prop where
  chk : t.chk = s.chk
  ie : t.ie = s.ie
  inEnd : t.inEnd = s.inEnd
  org : t.org = s.org
  outEnd : t.outEnd = s.outEnd
  rst : t.rst = s.rst
  rp0 : t.rp0 = s.rp0
  inMem : t.inMem = s.inMem
  stale : t.stale = s.stale
  hostReads : t.hostReads = s.hostReads
  rp : t.rp = s.rp ∨ (s.rp < s.inEnd ∧ t.rp = s.rp + 1)
  out : (t.wp = s.wp ∧ t.outMem = s.outMem) ∨
    (s.wp < s.outEnd ∧ t.wp = s.wp + 1 ∧ ∃ v, t.outMem = s.outMem.writeOut s.wp.toNat v)

theorem StepFrame.refl (s : State) : StepFrame s s :=
  ⟨rfl, rfl, rfl, rfl, rfl, rfl, rfl, rfl, rfl, rfl, .inl rfl, .inl ⟨rfl, rfl⟩⟩

theorem StepFrame.takeFault (s : State) (f : Fsm) (e : Event) : StepFrame s (s.takeFault f e) :=
  ⟨rfl, rfl, rfl, rfl, rfl, rfl, rfl, rfl, rfl, rfl, .inl rfl, .inl ⟨rfl, rfl⟩⟩

/-- A row without an event pending that reads a byte reads it below IN_END (20_memory.md R70). -/
theorem rp_lt_of_no_event (hp : pendingEvent s = none) (h : s.active ∉ [Fsm.idle, .done, .fault, .mcopy]) :
    s.rp < s.inEnd := by
  refine BitVec.not_le.1 fun hr => ?_
  cases h' : s.active <;> simp [pendingEvent, h', hr] at hp h

/-- A row without an event pending that writes a byte writes it below OUT_END (R71). -/
theorem wp_lt_of_no_event (hp : pendingEvent s = none) (h : s.active = .lcopy ∨ s.active = .mcopy) :
    s.wp < s.outEnd := by
  refine BitVec.not_le.1 fun hw => ?_
  rcases h with h | h <;> simp only [pendingEvent, h, if_pos hw] at hp <;> split at hp <;> cases hp

/-- A row that copies nothing advances the read cursor and changes the FSM state and the datapath only. -/
theorem commitRow_read (h : s.active ∉ [Fsm.idle, .done, .fault, .lcopy, .mcopy]) :
    commitRow s = { s with
      rp := s.rp + 1, st := (commitRow s).st, tok := (commitRow s).tok, bid := (commitRow s).bid,
      ext := (commitRow s).ext, llen := (commitRow s).llen, mlen := (commitRow s).mlen,
      dist := (commitRow s).dist } := by
  cases h' : s.active
  case idle | done | fault | lcopy | mcopy => simp [h'] at h
  all_goals simp only [commitRow, h']
  all_goals split_ifs <;> rfl

theorem StepFrame.commitRow (hp : pendingEvent s = none) : StepFrame s (commitRow s) := by
  cases h : s.active
  case idle | done | fault => simp only [Machine.commitRow, h]; exact .refl s
  case lcopy =>
    have hr := rp_lt_of_no_event hp (by simp [h])
    have hw := wp_lt_of_no_event hp (.inl h)
    rw [commitRow_lcopy h]
    exact ⟨rfl, rfl, rfl, rfl, rfl, rfl, rfl, rfl, rfl, rfl, .inr ⟨hr, rfl⟩, .inr ⟨hw, rfl, _, rfl⟩⟩
  case mcopy =>
    have hw := wp_lt_of_no_event hp (.inr h)
    rw [commitRow_mcopy h]
    exact ⟨rfl, rfl, rfl, rfl, rfl, rfl, rfl, rfl, rfl, rfl, .inl rfl, .inr ⟨hw, rfl, _, rfl⟩⟩
  all_goals
    have hr := rp_lt_of_no_event hp (by simp [h])
    rw [commitRow_read (by simp [h])]
    exact ⟨rfl, rfl, rfl, rfl, rfl, rfl, rfl, rfl, rfl, rfl, .inr ⟨hr, rfl⟩, .inl ⟨rfl, rfl⟩⟩

/-- Every step answers a state within the frame. -/
theorem step_frame (h : step s = .next t) : StepFrame s t := by
  rcases step_next_cases h with rfl | ⟨-, -, ⟨hp, rfl⟩ | ⟨-, e, -, rfl⟩⟩
  · exact .refl t
  · exact .commitRow hp
  · exact .takeFault s s.st e

/-- Only fault entry touches the fault record. -/
theorem commitRow_fault_record (s : State) : (commitRow s).fcode = s.fcode ∧ (commitRow s).fstate = s.fstate := by
  cases h : s.active
  case lcopy => rw [commitRow_lcopy h]; exact ⟨rfl, rfl⟩
  case mcopy => rw [commitRow_mcopy h]; exact ⟨rfl, rfl⟩
  case idle | done | fault => simp only [commitRow, h, and_self]
  all_goals rw [commitRow_read (by simp [h])]; exact ⟨rfl, rfl⟩

/-- Outside TOKEN a row keeps the token and its behaviour number (10_state.md R39). -/
theorem commitRow_token_fields (h : s.active ≠ .token) :
    (commitRow s).tok = s.tok ∧ (commitRow s).bid = s.bid := by
  cases h' : s.active
  case token => exact absurd h' h
  all_goals simp only [commitRow, h', and_self]
  all_goals split_ifs <;> exact ⟨rfl, rfl⟩

/-- Every row leaves the token's own behaviour number (40_dispatch.md R123). -/
theorem commitRow_bid (h : s.bid = bidOf s.tok) : (commitRow s).bid = bidOf (commitRow s).tok := by
  by_cases ht : s.active = .token
  · simp only [commitRow, ht]; split_ifs <;> rfl
  · obtain ⟨htok, hbid⟩ := commitRow_token_fields ht
    rw [htok, hbid, h]

/-- The distance of a match is from 1 to 65536 (10_state.md R43). -/
def State.distInRange (s : State) : Prop := 1 ≤ s.dist.toNat ∧ s.dist.toNat ≤ 65536

/-- What the invariant asks of the datapath in each FSM state: the token's fields that lead there, something to copy
and a distance where bytes are copied, a fault record in FAULT (44_control.md R221, R222). -/
def State.entered (s : State) : Prop :=
  match s.st with
  | .lext | .lextB | .lextWL | .lextWH => tokL s.tok = 7
  | .lcopy => s.llen ≠ 0
  | .ofsHi => tokO s.tok = true
  | .mext | .mextB | .mextWL | .mextWH => tokM s.tok = 15 ∧ s.distInRange
  | .mcopy => s.mlen ≠ 0 ∧ s.distInRange
  | .fault => 1 ≤ s.fcode.toNat ∧ s.fcode.toNat ≤ 5 ∧ 1 ≤ s.fstate.toNat ∧ s.fstate.toNat ≤ 13
  | .idle | .token | .ofsLo | .done => True

theorem State.entered_iff : s.entered ↔
    (s.st = .fault → 1 ≤ s.fcode.toNat ∧ s.fcode.toNat ≤ 5 ∧ 1 ≤ s.fstate.toNat ∧ s.fstate.toNat ≤ 13) ∧
    (s.st ∈ [Fsm.lext, .lextB, .lextWL, .lextWH] → tokL s.tok = 7) ∧
    (s.st = .ofsHi → tokO s.tok = true) ∧
    (s.st ∈ [Fsm.mext, .mextB, .mextWL, .mextWH] → tokM s.tok = 15) ∧
    (s.st = .lcopy → s.llen ≠ 0) ∧ (s.st = .mcopy → s.mlen ≠ 0) ∧
    (s.st ∈ [Fsm.mext, .mextB, .mextWL, .mextWH, .mcopy] → s.distInRange) := by
  unfold State.entered
  cases s.st <;> simp

theorem State.Inv.entered (h : s.Inv) : s.entered :=
  State.entered_iff.2 ⟨h.fault_record, h.literal_ext, h.wide_offset, h.match_ext, h.literal_pending, h.match_pending,
    h.distance⟩

/-- A cursor below a bound advances without wrapping (20_memory.md R72). -/
theorem advance_toNat {a b : Word} (h : a < b) : (a + 1).toNat = a.toNat + 1 := by bv_omega

/-- Within the frame of a micro-step, the invariant needs the new datapath's clauses only. -/
theorem State.Inv.of_frame (h : s.Inv) (hr : s.rst = false) (hb : isBusy s = true) (hf : StepFrame s t)
    (hbid : t.bid = bidOf t.tok) (hrec : t.st ≠ .fault → t.fcode = 0 ∧ t.fstate = 0) (he : t.entered) : t.Inv := by
  obtain ⟨hfault, hlext, hofs, hmext, hlcopy, hmcopy, hdist⟩ := State.entered_iff.1 he
  have hout : t.outMem.wf = true ∧ t.outMem.below Config.outSize = true := by
    rcases hf.out with ⟨-, hm⟩ | ⟨-, -, v, hm⟩
    · exact hm ▸ ⟨h.outMem_wf, h.outMem_below⟩
    · exact hm ▸ Mem.writeOut_wf _ _ _ ⟨h.outMem_wf, h.outMem_below⟩
  have hrp : t.rp.toNat < 2 ^ Config.addrW := by
    rcases hf.rp with hrp | ⟨hlt, hrp⟩
    · exact hrp ▸ h.rp_fits
    · have := advance_toNat hlt; have := h.inEnd_fits; rw [hrp]; bv_omega
  have hwp : t.wp.toNat < 2 ^ Config.addrW ∧ s.wp.toNat ≤ t.wp.toNat := by
    rcases hf.out with ⟨hwp, -⟩ | ⟨hlt, hwp, -⟩
    · rw [hwp]; exact ⟨h.wp_fits, Nat.le_refl _⟩
    · have := advance_toNat hlt; have := h.outEnd_fits; rw [hwp]; bv_omega
  exact {
    inMem_wf := hf.inMem ▸ h.inMem_wf
    inMem_below := hf.inMem ▸ h.inMem_below
    outMem_wf := hout.1
    outMem_below := hout.2
    stale_wf := hf.stale ▸ h.stale_wf
    rp_fits := hrp
    inEnd_fits := hf.inEnd ▸ h.inEnd_fits
    org_fits := hf.org ▸ h.org_fits
    wp_fits := hwp.1
    outEnd_fits := hf.outEnd ▸ h.outEnd_fits
    rst_held := fun hrst => absurd (hf.rst.symm.trans hrst) (by simp [hr])
    bid_eq := hbid
    no_fault_record := hrec
    fault_record := hfault
    literal_ext := hlext
    wide_offset := hofs
    match_ext := hmext
    literal_pending := hlcopy
    match_pending := hmcopy
    distance := hdist
    origin := fun _ => hf.org ▸ Nat.le_trans (h.origin hb) hwp.2 }

theorem dist8_inRange (b : Byte) : (s.setDist (dist8 b)).distInRange := by
  have := b.isLt
  simp only [State.distInRange, State.setDist_dist, dist8_toNat]; omega

theorem dist16_inRange (lo hi : Byte) : (s.setDist (dist16 lo hi)).distInRange := by
  have := lo.isLt; have := hi.isLt
  simp only [State.distInRange, State.setDist_dist, dist16_toNat]; omega

/-- A literal length leads to LCOPY with something to copy, or past it (41_literal.md R167). -/
theorem literalLength_entered (n : Half) (s : State) : (literalLength n s).entered := by
  by_cases hn : n = 0
  · rw [hn, literalLength_zero]; trivial
  · rw [literalLength_pos hn]; exact hn

/-- A match word leads to MCOPY with something to copy, or ends the run (43_match.md R194, R197). -/
theorem matchWord_entered (w : Half) (hd : s.distInRange) : (matchWord w s).entered := by
  by_cases hw : w = 0
  · rw [hw, matchWord_zero]; trivial
  · rw [matchWord_pos hw]; exact ⟨hw, hd⟩

/-- After an offset the match field routes to MEXT or MCOPY (42_offset.md R185). -/
theorem afterOffset_entered (hd : s.distInRange) : (afterOffset s).entered := by
  by_cases hm : tokM s.tok = 15
  · rw [afterOffset_extended hm]; exact ⟨hm, hd⟩
  · rw [afterOffset_inline hm]; exact ⟨matchInline_ne_zero _, hd⟩

/-- MCOPY goes on while there is something to copy (43_match.md R200). -/
theorem countMatchByte_entered (hd : s.distInRange) : (countMatchByte s).entered := by
  unfold countMatchByte
  split_ifs with h0
  · trivial
  · exact ⟨h0, hd⟩

/-- Each row leads only to a state whose demands it meets. -/
theorem commitRow_entered (h : s.entered) (hr : s.rst = false) : (commitRow s).entered := by
  have hst := active_of hr
  cases ha : s.active <;> rw [ha] at hst
  case idle | done | fault => simpa only [commitRow, ha] using h
  all_goals simp only [State.entered, ← hst] at h
  case token =>
    rw [commitRow_token ha]
    split_ifs with h7
    · exact h7
    · exact literalLength_entered _ _
  case lext =>
    simp only [commitRow, ha]
    split_ifs
    · exact litShort_ne_zero _
    · exact h
    · exact h
  case lextB => simp only [commitRow, ha]; exact litByte_ne_zero _
  case lextWL => simp only [commitRow, ha]; exact h
  case lextWH => rw [commitRow_lextWH ha]; exact literalLength_entered _ _
  case lcopy => rw [commitRow_lcopy ha]; exact literalLength_entered _ _
  case ofsLo =>
    cases ho : tokO s.tok
    · rw [commitRow_ofsLo_narrow ha ho]; exact afterOffset_entered (dist8_inRange _)
    · rw [commitRow_ofsLo_wide ha ho]; exact ho
  case ofsHi => rw [commitRow_ofsHi ha]; exact afterOffset_entered (dist16_inRange _ _)
  case mext =>
    simp only [commitRow, ha]
    split_ifs
    · exact ⟨matchShort_ne_zero _, h.2⟩
    · exact h
    · exact h
  case mextB => simp only [commitRow, ha]; exact ⟨matchByte_ne_zero _, h.2⟩
  case mextWL => simp only [commitRow, ha]; exact h
  case mextWH => rw [commitRow_mextWH ha]; exact matchWord_entered _ h.2
  case mcopy => rw [commitRow_mcopy ha]; exact countMatchByte_entered h.2

theorem eventCode_range (e : Event) : 1 ≤ (eventCode e).toNat ∧ (eventCode e).toNat ≤ 5 := by cases e <;> decide

theorem fsmCode_range {f : Fsm} (h : f ≠ .idle ∧ f ≠ .done ∧ f ≠ .fault) :
    1 ≤ (fsmCode f).toNat ∧ (fsmCode f).toNat ≤ 13 := by
  revert h; cases f <;> decide

/-- The fault record of an event in a working state has a code and a state that exist (60_exceptions.md R253). -/
theorem takeFault_entered (hb : isBusy s = true) (e : Event) : (s.takeFault s.st e).entered := by
  obtain ⟨hpos, hle⟩ := eventCode_range e
  exact ⟨hpos, hle, fsmCode_range ((isBusy_iff s).1 hb)⟩

/-- Nothing done, a row within the frame that enters its state rightly, or a fault entry with its record. -/
theorem State.Inv.step (h : s.Inv) (hstep : step s = .next t) : t.Inv := by
  rcases step_next_cases hstep with rfl | ⟨hr, hb, ⟨hp, rfl⟩ | ⟨-, e, -, rfl⟩⟩
  · exact h
  · obtain ⟨hcode, hstate⟩ := commitRow_fault_record s
    have hrec := h.no_fault_record ((isBusy_iff s).1 hb).2.2
    exact h.of_frame hr hb (.commitRow hp) (commitRow_bid h.bid_eq) (fun _ => by rwa [hcode, hstate])
      (commitRow_entered h.entered hr)
  · exact h.of_frame hr hb (.takeFault s s.st e) h.bid_eq (fun hne => absurd rfl hne) (takeFault_entered hb e)

end Sys2Proof.Machine

open Sys2Proof Sys2Proof.Machine

/-- Settles O44, by the three things a step can do. -/
theorem invariantKeptByStep : Obligations.InvariantKeptByStep := by
  unfold Obligations.InvariantKeptByStep
  intro s t hinv hstep
  exact hinv.step hstep
end

section
/-! PROOF. What a register write does with `rst` released, and that every host action keeps the invariant. -/

namespace Sys2Proof.Machine

open Sys2Proof

variable {s t : State} {off v : Word} {r : Reg}

/-! ### Register writes with `rst` released -/

theorem writeReg_ctrl (h : s.rst = false) (v : Word) : writeReg s .ctrl v = writeCtrl s v := if_neg (by simp [h])

theorem writeReg_inPtr (h : s.rst = false) (v : Word) :
    writeReg s .inPtr v = writeIdle s { s with rp := truncAddr v } := if_neg (by simp [h])

theorem writeReg_inEnd (h : s.rst = false) (v : Word) :
    writeReg s .inEnd v = writeIdle s { s with inEnd := truncAddr v } := if_neg (by simp [h])

theorem writeReg_outOrg (h : s.rst = false) (v : Word) :
    writeReg s .outOrg v = writeIdle s { s with org := truncAddr v } := if_neg (by simp [h])

theorem writeReg_outEnd (h : s.rst = false) (v : Word) :
    writeReg s .outEnd v = writeIdle s { s with outEnd := truncAddr v } := if_neg (by simp [h])

/-- The eight read-only registers ignore writes, at either level of `rst` (10_state.md R21). -/
theorem writeReg_readOnly (h : r ∈ [Reg.status, .outPtr, .result, .token, .llen, .mlen, .dist, .id]) (s : State)
    (v : Word) : writeReg s r v = s := by
  unfold writeReg
  cases r
  case ctrl | inPtr | inEnd | outOrg | outEnd => simp at h
  all_goals exact ite_self s

/-! ### The invariant under the host's actions -/

/-- The clauses of the invariant on the memories, for any memories a host action leaves. -/
structure MemoriesOk (i o : Mem) (l : List Mem) : Prop where
  inMem : i.wf = true ∧ i.below Config.inSize = true
  outMem : o.wf = true ∧ o.below Config.outSize = true
  stale : ∀ m ∈ l, m.wf = true ∧ m.below Config.outSize = true

theorem State.Inv.memoriesOk (h : s.Inv) : MemoriesOk s.inMem s.outMem s.stale :=
  ⟨⟨h.inMem_wf, h.inMem_below⟩, ⟨h.outMem_wf, h.outMem_below⟩, h.stale_wf⟩

theorem bidOf_zero : bidOf 0 = 0 := by decide

/-- With every register at its reset value the invariant is about the memories only, at either level of `rst`
(70_reset_and_hazards.md R280). -/
theorem inv_of_registers_reset {i o : Mem} {l : List Mem} (h : MemoriesOk i o l) (level : Bool) (n : Nat) :
    State.Inv { State.reset with rst := level, inMem := i, outMem := o, stale := l, hostReads := n } where
  inMem_wf := h.inMem.1
  inMem_below := h.inMem.2
  outMem_wf := h.outMem.1
  outMem_below := h.outMem.2
  stale_wf := h.stale
  rp_fits := Nat.two_pow_pos _
  inEnd_fits := Nat.two_pow_pos _
  org_fits := Nat.two_pow_pos _
  wp_fits := Nat.two_pow_pos _
  outEnd_fits := Nat.two_pow_pos _
  rst_held := by rintro rfl; rfl
  bid_eq := bidOf_zero.symm
  no_fault_record := fun _ => ⟨rfl, rfl⟩
  fault_record := nofun
  literal_ext := by simp [State.reset]
  wide_offset := nofun
  match_ext := by simp [State.reset]
  literal_pending := nofun
  match_pending := nofun
  distance := by simp [State.reset]
  origin := nofun

theorem State.Inv.resetAction (h : s.Inv) : (resetAction s).Inv := inv_of_registers_reset h.memoriesOk true s.hostReads

/-- No clause but those on the memories speaks of them, or of what the host has read. -/
theorem State.Inv.withMemories (h : s.Inv) {i o : Mem} {l : List Mem} (hm : MemoriesOk i o l) (n : Nat) :
    State.Inv { s with inMem := i, outMem := o, stale := l, hostReads := n } :=
  { h with
    inMem_wf := hm.inMem.1
    inMem_below := hm.inMem.2
    outMem_wf := hm.outMem.1
    outMem_below := hm.outMem.2
    stale_wf := hm.stale
    rst_held := fun hr => congrArg (fun u : State => { u with inMem := i, outMem := o, stale := l, hostReads := n })
      (h.rst_held hr) }

/-- Between runs the modes are free, and the cursors and bounds are free within `ADDR_W` bits (10_state.md R22, R26). -/
theorem State.Inv.configured (h : s.Inv) (hr : s.rst = false) (hb : isBusy s = false) (c e : Bool)
    {rp inEnd org outEnd : Word} (h1 : rp.toNat < 2 ^ Config.addrW) (h2 : inEnd.toNat < 2 ^ Config.addrW)
    (h3 : org.toNat < 2 ^ Config.addrW) (h4 : outEnd.toNat < 2 ^ Config.addrW) :
    State.Inv { s with chk := c, ie := e, rp := rp, inEnd := inEnd, org := org, outEnd := outEnd } :=
  { h with
    rp_fits := h1
    inEnd_fits := h2
    org_fits := h3
    outEnd_fits := h4
    rst_held := fun hr' => absurd hr' (by simp [hr])
    origin := fun hb' => absurd hb' (by simpa [isBusy] using hb) }

/-- IE is free in every state with `rst` released. -/
theorem State.Inv.setIe (h : s.Inv) (hr : s.rst = false) (e : Bool) : State.Inv { s with ie := e } :=
  { h with rst_held := fun hr' => absurd hr' (by simp [hr]) }

/-- START sets up a state of the invariant: an empty datapath at TOKEN, the write cursor at the origin
(44_control.md R224). -/
theorem State.Inv.start (h : s.Inv) (hr : s.rst = false) (v : Word) : (start s v).Inv :=
  { h with
    stale_wf := List.forall_mem_cons.2 ⟨⟨h.outMem_wf, h.outMem_below⟩, h.stale_wf⟩
    wp_fits := h.org_fits
    rst_held := fun hr' => absurd (hr'.symm.trans hr) (by decide)
    bid_eq := bidOf_zero.symm
    no_fault_record := fun _ => ⟨rfl, rfl⟩
    fault_record := nofun
    literal_ext := by simp [Machine.start]
    wide_offset := nofun
    match_ext := by simp [Machine.start]
    literal_pending := nofun
    match_pending := nofun
    distance := by simp [Machine.start]
    origin := fun _ => Nat.le_refl _ }

theorem State.Inv.writeCtrl (h : s.Inv) (hr : s.rst = false) (v : Word) : (writeCtrl s v).Inv := by
  cases hb : isBusy s
  · cases hv : v.getLsbD 0
    · rw [writeCtrl_modes hb hv]; exact h.configured hr hb _ _ h.rp_fits h.inEnd_fits h.org_fits h.outEnd_fits
    · rw [writeCtrl_start hb hv]; exact h.start hr v
  · rw [writeCtrl_busy hb]; exact h.setIe hr _

/-- A write taken only between runs keeps what the written state keeps there. -/
theorem State.Inv.writeIdle (h : s.Inv) (ht : isBusy s = false → t.Inv) : (writeIdle s t).Inv := by
  cases hb : isBusy s
  · rw [writeIdle_idle hb]; exact ht hb
  · rwa [writeIdle_busy hb]

theorem State.Inv.writeReg (h : s.Inv) (r : Reg) (v : Word) : (writeReg s r v).Inv := by
  cases hr : s.rst
  case true => rwa [writeReg_held hr]
  cases r
  case ctrl => rw [writeReg_ctrl hr]; exact h.writeCtrl hr v
  case inPtr =>
    rw [writeReg_inPtr hr]
    exact h.writeIdle fun hb => h.configured hr hb s.chk s.ie (truncAddr_lt v) h.inEnd_fits h.org_fits h.outEnd_fits
  case inEnd =>
    rw [writeReg_inEnd hr]
    exact h.writeIdle fun hb => h.configured hr hb s.chk s.ie h.rp_fits (truncAddr_lt v) h.org_fits h.outEnd_fits
  case outOrg =>
    rw [writeReg_outOrg hr]
    exact h.writeIdle fun hb => h.configured hr hb s.chk s.ie h.rp_fits h.inEnd_fits (truncAddr_lt v) h.outEnd_fits
  case outEnd =>
    rw [writeReg_outEnd hr]
    exact h.writeIdle fun hb => h.configured hr hb s.chk s.ie h.rp_fits h.inEnd_fits h.org_fits (truncAddr_lt v)
  all_goals rw [writeReg_readOnly (by simp)]; exact h

theorem State.Inv.seeEnd (h : s.Inv) : (seeEnd s).Inv :=
  h.withMemories ⟨h.memoriesOk.inMem, h.memoriesOk.outMem, by simp⟩ s.hostReads

/-- A released `rst` leaves the registers as they are. -/
theorem State.Inv.resetRelease (h : s.Inv) : (resetRelease s).Inv := { h with rst_held := nofun }

theorem State.Inv.hostWriteReg {width : Nat} (h : s.Inv) (hw : hostWriteReg s width off v = .next t) : t.Inv := by
  cases ha : regAccessOk width off
  · rw [hostWriteReg_bad ha] at hw; cases hw
  · rw [hostWriteReg_ok ha] at hw
    cases hr : regAt off <;> rw [hr] at hw <;> cases hw
    · exact h
    · exact h.writeReg _ v

theorem State.Inv.afterReadReg {width : Nat} (h : s.Inv) (hr : afterReadReg s width off = .next t) : t.Inv := by
  cases ha : regAccessOk width off
  · rw [afterReadReg_bad ha] at hr; cases hr
  · rw [afterReadReg_ok ha] at hr
    cases hr
    split
    · exact h.seeEnd
    · exact h

theorem State.Inv.hostPlaceIn {a : Word} {b : Byte} (h : s.Inv) (hp : hostPlaceIn s a b = .next t) : t.Inv := by
  rcases hostPlaceIn_cases s a b with ⟨ha, he⟩ | ⟨-, he⟩ | ⟨-, -, -, he⟩ <;> rw [he] at hp <;> cases hp
  have hm := h.memoriesOk
  exact h.withMemories ⟨⟨Mem.write_wf _ _ _ hm.inMem.1, Mem.write_below _ _ hm.inMem.2 ha⟩, hm.outMem, hm.stale⟩
    s.hostReads

theorem State.Inv.hostPlaceOut {a : Word} {b : Byte} (h : s.Inv) (hp : hostPlaceOut s a b = .next t) : t.Inv := by
  rcases hostPlaceOut_cases s a b with ⟨-, he⟩ | ⟨-, he⟩ | ⟨-, -, -, he⟩ <;> rw [he] at hp <;> cases hp
  have hm := h.memoriesOk
  refine h.withMemories ⟨hm.inMem, Mem.writeOut_wf _ _ _ hm.outMem, ?_⟩ s.hostReads
  intro m hmem
  obtain ⟨m', hm', rfl⟩ := List.mem_map.1 hmem
  exact Mem.writeOut_wf _ _ _ (hm.stale m' hm')

theorem State.Inv.afterReadOut {a : Word} (h : s.Inv) (hr : afterReadOut s a = .next t) : t.Inv := by
  rcases Nat.lt_or_ge a.toNat Config.outSize with ha | ha
  · rw [afterReadOut_of_lt ha] at hr; cases hr; exact h.withMemories h.memoriesOk _
  · rw [afterReadOut_of_le ha] at hr; cases hr

theorem State.Inv.afterReadIrq (h : s.Inv) : (afterReadIrq s).Inv := by
  unfold Machine.afterReadIrq
  split
  · exact h.seeEnd
  · exact h

/-- Every host action that does not stop keeps the invariant. -/
theorem State.Inv.hostStep {op : HostOp} (h : s.Inv) (hop : hostStep op s = .next t) : t.Inv := by
  cases op with
  | writeReg width off v => exact h.hostWriteReg hop
  | readReg width off => exact h.afterReadReg hop
  | placeIn a b => exact h.hostPlaceIn hop
  | placeOut a b => exact h.hostPlaceOut hop
  | readOut a => exact h.afterReadOut hop
  | readIrq => cases hop; exact h.afterReadIrq
  | setReset level =>
    cases level <;> cases hop
    · exact h.resetRelease
    · exact h.resetAction

end Sys2Proof.Machine

open Sys2Proof Sys2Proof.Machine

/-- Settles O46, one lemma per host action. -/
theorem invariantKeptByHost : Obligations.InvariantKeptByHost := by
  unfold Obligations.InvariantKeptByHost
  intro op s t hinv hop
  exact hinv.hostStep hop

/-- Settles O45: at reset every register holds its reset value, and the memories are as they were. -/
theorem invariantAtReset : Obligations.InvariantAtReset := by
  unfold Obligations.InvariantAtReset
  have hempty : MemoriesOk [] [] [] := ⟨⟨rfl, rfl⟩, ⟨rfl, rfl⟩, by simp⟩
  exact ⟨inv_of_registers_reset hempty false 0, fun s t hinv hop => hinv.hostStep hop⟩

/-- Settles O34: both cursors move within the frame of the step. -/
theorem cursorsOnlyAdvance : Obligations.CursorsOnlyAdvance := by
  unfold Obligations.CursorsOnlyAdvance
  intro s t hstep
  have hf := step_frame hstep
  refine ⟨?_, ?_, hf.org, hf.inEnd, hf.outEnd, hf.chk, hf.ie⟩
  · rcases hf.rp with hrp | ⟨hlt, hrp⟩
    · exact .inl hrp
    · exact .inr ⟨hlt, hrp ▸ advance_toNat hlt⟩
  · rcases hf.out with ⟨hwp, -⟩ | ⟨hlt, hwp, -⟩
    · exact .inl hwp
    · exact .inr ⟨hlt, hwp ▸ advance_toNat hlt⟩
end

section
/-! PROOF. The register block as the host reads and writes it, by offset. -/

namespace Sys2Proof.Machine

open Sys2Proof

variable {s t : State} {off v : Word} {r : Reg}

/-! ### REG accesses -/

theorem regAccessOk_aligned (h : off.toNat % 4 = 0) : regAccessOk 4 off = true := by simp [regAccessOk, h]

theorem regAccessOk_bad {width : Nat} (h : width ≠ 4 ∨ off.toNat % 4 ≠ 0) : regAccessOk width off = false := by
  simpa [regAccessOk, imp_iff_not_or] using h

/-- Every register stands at a multiple of 4 (10_state.md R21). -/
theorem regAccessOk_of_regAt (h : regAt off = some r) : regAccessOk 4 off = true := by
  apply regAccessOk_aligned
  unfold regAt at h
  split at h
  case h_14 => cases h
  all_goals omega

/-- STATUS stands at 0x04 only (R21). -/
theorem eq_of_regAt_status (h : regAt off = some .status) : off = 0x04 := by
  unfold regAt at h
  split at h <;> cases h
  exact BitVec.eq_of_toNat_eq ‹_›

theorem hostReadReg_of_regAt (h : regAt off = some r) (s : State) : hostReadReg s 4 off = .ok (readReg s r) := by
  simp only [hostReadReg, regAccessOk_of_regAt h, h, if_true]

theorem hostStep_writeReg (h : regAt off = some r) (s : State) (v : Word) :
    hostStep (.writeReg 4 off v) s = .next (writeReg s r v) := by
  simp only [hostStep, hostWriteReg_ok (regAccessOk_of_regAt h), h]; rfl

theorem hostStep_writeReg_none (h : regAt off = none) (ha : regAccessOk 4 off = true) (s : State) (v : Word) :
    hostStep (.writeReg 4 off v) s = .next s := by
  simp only [hostStep, hostWriteReg_ok ha, h]; rfl

/-- While `rst` is asserted a 32-bit write changes nothing at any offset (70_reset_and_hazards.md R280). -/
theorem hostStep_writeReg_held (h : s.rst = true) (ha : regAccessOk 4 off = true) (v : Word) :
    hostStep (.writeReg 4 off v) s = .next s := by
  cases hat : regAt off with
  | none => exact hostStep_writeReg_none hat ha s v
  | some r => rw [hostStep_writeReg hat, writeReg_held h]

/-- A write at the offset of a read-only register changes nothing (R21). -/
theorem hostStep_writeReg_readOnly (h : off ∈ [(0x04 : Word), 0x14, 0x1C, 0x20, 0x24, 0x28, 0x2C, 0x30]) (s : State)
    (v : Word) : hostStep (.writeReg 4 off v) s = .next s := by
  have key : ∀ r ∈ [Reg.status, .outPtr, .result, .token, .llen, .mlen, .dist, .id], regAt off = some r →
      hostStep (.writeReg 4 off v) s = .next s :=
    fun r hr hat => by rw [hostStep_writeReg hat, writeReg_readOnly hr]
  simp only [List.mem_cons, List.not_mem_nil, or_false] at h
  rcases h with rfl | rfl | rfl | rfl | rfl | rfl | rfl | rfl
  · exact key .status (by simp) rfl
  · exact key .outPtr (by simp) rfl
  · exact key .result (by simp) rfl
  · exact key .token (by simp) rfl
  · exact key .llen (by simp) rfl
  · exact key .mlen (by simp) rfl
  · exact key .dist (by simp) rfl
  · exact key .id (by simp) rfl

/-! ### The fields of STATUS and the value of RESULT -/

theorem statusWord_extractLsb' (s : State) :
    (statusWord s).extractLsb' 0 4 = fsmCode s.st ∧ (statusWord s).extractLsb' 8 4 = s.fcode ∧
    (statusWord s).extractLsb' 12 4 = s.fstate ∧ (statusWord s).extractLsb' 16 16 = 0 := by
  have h := statusWord_toNat s
  have := (fsmCode s.st).isLt; have := s.fcode.isLt; have := s.fstate.isLt
  have := (isBusy s).toNat_le; have := (isDone s).toNat_le; have := (isFault s).toNat_le
  have hfield (i n : Nat) : ((statusWord s).extractLsb' i n).toNat = (statusWord s).toNat / 2 ^ i % 2 ^ n := by
    rw [BitVec.extractLsb'_toNat, Nat.shiftRight_eq_div_pow]
  refine ⟨?_, ?_, ?_, ?_⟩ <;> apply BitVec.eq_of_toNat_eq <;> rw [hfield, h]
  · omega
  · omega
  · omega
  · change _ = 0; omega

theorem statusWord_getLsbD (s : State) :
    (statusWord s).getLsbD 4 = isBusy s ∧ (statusWord s).getLsbD 5 = isDone s ∧
    (statusWord s).getLsbD 6 = isFault s ∧ (statusWord s).getLsbD 7 = false := by
  simp only [statusWord, BitVec.getLsbD_append]; simp

theorem resultWord_toInt (s : State) : ((resultWord s).toNat : Int) =
    ((s.wp.toNat : Int) - (s.org.toNat : Int)) % ((2 ^ Config.addrW : Nat) : Int) := by
  have horg := s.org.isLt
  obtain ⟨m, hm⟩ : 2 ^ Config.addrW ∣ 2 ^ 32 := Nat.pow_dvd_pow 2 addrW_bounds.2
  rw [resultWord_toNat, Int.natCast_emod]
  have : ((2 ^ 32 - s.org.toNat + s.wp.toNat : Nat) : Int) =
      (s.wp.toNat : Int) - s.org.toNat + ((2 ^ Config.addrW : Nat) : Int) * (m : Int) := by
    rw [← Int.natCast_mul, ← hm]; omega
  rw [this, Int.add_mul_emod_self_left]

theorem resultWord_produced (h : s.Inv) (ho : s.org.toNat ≤ s.wp.toNat) :
    (resultWord s).toNat = s.produced.length := by
  have hwp := h.wp_fits
  have hlen : s.produced.length = s.wp.toNat - s.org.toNat := by simp [State.produced]
  have hlt : s.wp.toNat - s.org.toNat < 2 ^ Config.addrW := by omega
  have hint := resultWord_toInt s
  rw [← Int.ofNat_sub ho, ← Int.natCast_emod, Nat.mod_eq_of_lt hlt] at hint
  rw [hlen]; exact Int.ofNat_inj.1 hint

theorem resultWord_of_wp_eq_org (h : s.wp = s.org) : resultWord s = 0 := by
  rw [resultWord, h, BitVec.sub_self]
  exact truncAddr_of_fits (Nat.two_pow_pos _)

/-! ### A held reset -/

theorem statusWord_resetAction (s : State) : statusWord (resetAction s) = 0 :=
  BitVec.eq_of_toNat_eq (by rw [statusWord_toNat]; rfl)

theorem accesses_idle (h : s.active = .idle) : accesses s = [] := by simp [accesses, h]

end Sys2Proof.Machine

open Sys2Proof Sys2Proof.Machine

/-- Settles O56, by the value of RESULT as an integer. -/
theorem resultReadsBytesProduced : Obligations.ResultReadsBytesProduced := by
  unfold Obligations.ResultReadsBytesProduced
  refine ⟨fun s => ⟨resultWord s, hostReadReg_of_regAt (r := .result) rfl s, resultWord_toInt s, resultWord_produced⟩,
    ?_, ?_⟩
  · exact fun s v => hostStep_writeReg_readOnly (by simp) s v
  · exact (hostReadReg_of_regAt (r := .result) rfl _).trans (congrArg _ (resultWord_of_wp_eq_org rfl))

/-- Settles O52: the writes by the register's own law, the constancy by the frame of the step. -/
theorem busyWritesTouchOnlyIe : Obligations.BusyWritesTouchOnlyIe := by
  unfold Obligations.BusyWritesTouchOnlyIe
  refine ⟨fun s v hr hb => ⟨?_, ?_, ?_, ?_, ?_⟩, fun s t hstep => ?_⟩
  · rw [hostStep_writeReg (r := .ctrl) rfl, writeReg_ctrl hr, writeCtrl_busy hb]
  · rw [hostStep_writeReg (r := .inPtr) rfl, writeReg_inPtr hr, writeIdle_busy hb]
  · rw [hostStep_writeReg (r := .inEnd) rfl, writeReg_inEnd hr, writeIdle_busy hb]
  · rw [hostStep_writeReg (r := .outOrg) rfl, writeReg_outOrg hr, writeIdle_busy hb]
  · rw [hostStep_writeReg (r := .outEnd) rfl, writeReg_outEnd hr, writeIdle_busy hb]
  · have hf := step_frame hstep
    exact ⟨hf.chk, hf.inEnd, hf.org, hf.outEnd⟩

/-- Settles O53: the value taken is the written one modulo `2^ADDR_W`. -/
theorem idleWritesSetTheRegisters : Obligations.IdleWritesSetTheRegisters := by
  unfold Obligations.IdleWritesSetTheRegisters
  intro s v hr hb
  refine ⟨⟨truncAddr v, truncAddr_toNat v, ?_, hostReadReg_of_regAt (r := .inPtr) rfl _, ?_,
    hostReadReg_of_regAt (r := .inEnd) rfl _, ?_, hostReadReg_of_regAt (r := .outOrg) rfl _, ?_,
    hostReadReg_of_regAt (r := .outEnd) rfl _⟩, fun hv => ?_⟩
  · rw [hostStep_writeReg (r := .inPtr) rfl, writeReg_inPtr hr, writeIdle_idle hb]
  · rw [hostStep_writeReg (r := .inEnd) rfl, writeReg_inEnd hr, writeIdle_idle hb]
  · rw [hostStep_writeReg (r := .outOrg) rfl, writeReg_outOrg hr, writeIdle_idle hb]
  · rw [hostStep_writeReg (r := .outEnd) rfl, writeReg_outEnd hr, writeIdle_idle hb]
  · rw [hostStep_writeReg (r := .ctrl) rfl, writeReg_ctrl hr, writeCtrl_modes hb hv]

/-- Settles O54: each read is the register's word, whose value the laws of the words give. -/
theorem readOnlyRegistersReadAndIgnore : Obligations.ReadOnlyRegistersReadAndIgnore := by
  unfold Obligations.ReadOnlyRegistersReadAndIgnore
  intro s v
  refine ⟨hostReadReg_of_regAt (r := .outPtr) rfl s, ⟨tokenWord s, hostReadReg_of_regAt (r := .token) rfl s,
      tokenWord_toNat s⟩,
    ⟨s.llen.setWidth 32, hostReadReg_of_regAt (r := .llen) rfl s, ?_⟩,
    ⟨s.mlen.setWidth 32, hostReadReg_of_regAt (r := .mlen) rfl s, ?_⟩,
    ⟨s.dist.setWidth 32, hostReadReg_of_regAt (r := .dist) rfl s, ?_⟩, hostReadReg_of_regAt (r := .id) rfl s,
    ⟨ctrlWord s, hostReadReg_of_regAt (r := .ctrl) rfl s, ctrlWord_toNat s⟩,
    fun off hoff => hostStep_writeReg_readOnly hoff s v⟩
  all_goals exact BitVec.toNat_setWidth_of_le (by decide)

/-- Settles O55, field by field of the STATUS word. -/
theorem statusReadsItsFields : Obligations.StatusReadsItsFields := by
  unfold Obligations.StatusReadsItsFields
  refine ⟨by decide, fun s => ⟨statusWord s, hostReadReg_of_regAt (r := .status) rfl s, ?_⟩, fun s v =>
    hostStep_writeReg_readOnly (by simp) s v, by decide⟩
  obtain ⟨hstate, hfcode, hfstate, hzero⟩ := statusWord_extractLsb' s
  obtain ⟨hbusy, hdone, hfault, hseven⟩ := statusWord_getLsbD s
  refine ⟨hstate, hbusy ▸ isBusy_iff s, hdone ▸ isDone_iff s, hfault ▸ isFault_iff s, hseven, hfcode, hfstate, hzero,
    fun hinv hnf => hinv.no_fault_record fun hst => ?_⟩
  rw [hfault, (isFault_iff s).2 hst] at hnf
  cases hnf

/-- Settles O57, by the laws of aligned and of other accesses. -/
theorem registerAccessRules : Obligations.RegisterAccessRules := by
  unfold Obligations.RegisterAccessRules
  refine ⟨fun s off v ha hoff => ⟨?_, ?_⟩, fun s width off v hbad => ⟨?_, ?_, ?_⟩, fun s off ha hoff => ?_,
    fun s hb => ?_⟩
  · simp only [hostReadReg, regAccessOk_aligned ha, regAt_of_le hoff, if_true]
  · exact hostStep_writeReg_none (regAt_of_le hoff) (regAccessOk_aligned ha) s v
  · simp [hostReadReg, regAccessOk_bad hbad]
  · exact afterReadReg_bad (regAccessOk_bad hbad) s
  · exact hostWriteReg_bad (regAccessOk_bad hbad) s v
  · have hns : ¬ (regAt off = some .status ∧ isBusy s = false) := by
      rintro ⟨hst, hb⟩
      rcases hoff with hne | hb'
      · exact hne (eq_of_regAt_status hst)
      · rw [hb] at hb'; cases hb'
    exact (afterReadReg_ok (regAccessOk_aligned ha) s).trans (by rw [if_neg hns])
  · exact (afterReadReg_ok (regAccessOk_aligned (by decide)) s).trans (by rw [if_pos ⟨rfl, hb⟩]; rfl)

/-- Settles O59: while `rst` is held nothing acts on the engine, and after it the engine stands in IDLE. -/
theorem resetSetsEveryRegister : Obligations.ResetSetsEveryRegister := by
  unfold Obligations.ResetSetsEveryRegister
  intro s
  refine ⟨resetAction s, rfl, rfl, ⟨rfl, rfl, rfl, rfl, rfl, rfl, rfl, rfl, rfl, rfl, rfl, rfl, rfl, rfl, rfl, rfl⟩,
    rfl, rfl, rfl, ?_, ?_, ?_, accesses_idle rfl, fun k => run_of_fixed (step_held rfl) k, ?_,
    resetRelease (resetAction s), rfl, rfl, accesses_idle rfl, fun k => run_quiet (.inl rfl) k⟩
  · exact (hostReadReg_of_regAt (r := .status) rfl _).trans (congrArg _ (statusWord_resetAction s))
  · exact (hostReadReg_of_regAt (r := .result) rfl _).trans (congrArg _ (resultWord_of_wp_eq_org rfl))
  · exact hostReadReg_of_regAt (r := .id) rfl _
  · exact fun off v ha => hostStep_writeReg_held rfl (regAccessOk_aligned ha) v
end

section
/-! PROOF. A micro-step reads no byte of IN but the one at the read cursor (20_memory.md R66, R73): the pending event
and the row committed are the same under any IN that holds that byte. -/

namespace Sys2Proof.Machine

open Sys2Proof

variable {s : State} {m : Mem}

/-- An outcome with the IN memory of its state replaced; a stop stays as it is. -/
def replaceIn (m : Mem) : Host.Outcome State Fault Refusal → Host.Outcome State Fault Refusal
  | .next t => .next { t with inMem := m }
  | .fault f => .fault f
  | .refused r => .refused r

theorem pendingEvent_withIn (h : State.readIn { s with inMem := m } s.rp.toNat = s.readIn s.rp.toNat) :
    pendingEvent { s with inMem := m } = pendingEvent s := by
  simp only [pendingEvent, h]; rfl

theorem commitRow_withIn (h : State.readIn { s with inMem := m } s.rp.toNat = s.readIn s.rp.toNat) :
    commitRow { s with inMem := m } = { commitRow s with inMem := m } := by
  have hactive : State.active { s with inMem := m } = s.active := rfl
  cases ha : s.active <;> simp only [commitRow, hactive, ha, h]
  all_goals split_ifs <;> rfl

theorem raise_withIn (s : State) (m : Mem) (f : Fsm) (e : Event) :
    raise { s with inMem := m } f e = replaceIn m (raise s f e) := by
  rcases Bool.eq_false_or_eq_true s.chk with hc | hc
  · rw [raise_checked hc, raise_checked (s := { s with inMem := m }) hc]; rfl
  · rw [raise_unchecked hc, raise_unchecked (s := { s with inMem := m }) hc]; rfl

/-- Replacing the bytes of IN a micro-step does not read commutes with the micro-step. -/
theorem step_withIn (h : State.readIn { s with inMem := m } s.rp.toNat = s.readIn s.rp.toNat) :
    step { s with inMem := m } = replaceIn m (step s) := by
  have hp' := pendingEvent_withIn h
  rw [step_eq_transition, step_eq_transition]
  cases hp : pendingEvent s with
  | none => rw [transition_of_none hp, transition_of_none (hp'.trans hp), commitRow_withIn h]; rfl
  | some e => rw [transition_of_some hp, transition_of_some (hp'.trans hp), raise_withIn]

end Sys2Proof.Machine

open Sys2Proof Sys2Proof.Machine

/-- Settles O48: replacing the unread bytes of IN commutes with the step. -/
theorem unreadInputIsIrrelevant : Obligations.UnreadInputIsIrrelevant := by
  unfold Obligations.UnreadInputIsIrrelevant
  intro s m h
  refine ⟨fun t ht => ?_, fun f hf => ?_⟩
  · rw [step_withIn h, ht]; rfl
  · rw [step_withIn h, hf]; rfl
end

section
/-! PROOF. The accesses of a micro-step, FSM state by FSM state, and what they say of the cursors and of OUT
(20_memory.md R66, R73, R82). -/

namespace Sys2Proof.Machine

open Sys2Proof

variable {s : State}

/-! ### The accesses of each FSM state -/

theorem accesses_quiet (h : s.active ∈ [Fsm.idle, .done, .fault]) : accesses s = [] := by
  cases ha : s.active <;> simp [ha] at h <;> simp only [accesses, ha]

/-- A state that only reads makes its read where there is a byte of the block, a reserved one included. -/
theorem accesses_read (h : s.active ∉ [Fsm.idle, .done, .fault, .lcopy, .mcopy]) :
    accesses s = if s.inEnd ≤ s.rp then [] else [.inRead s.rp.toNat] := by
  cases ha : s.active
  case idle | done | fault | lcopy | mcopy => simp [ha] at h
  all_goals simp only [accesses, pendingEvent, ha]
  all_goals split_ifs <;> rfl

/-- LCOPY reads, then writes (60_exceptions.md R256). -/
theorem accesses_lcopy (h : s.active = .lcopy) :
    accesses s = if s.inEnd ≤ s.rp then [] else if s.outEnd ≤ s.wp then [.inRead s.rp.toNat]
      else [.inRead s.rp.toNat, .outWrite s.wp.toNat] := by
  simp only [accesses, pendingEvent, h]
  split_ifs <;> rfl

/-- MCOPY tests the origin, then reads, then writes (R256). -/
theorem accesses_mcopy (h : s.active = .mcopy) :
    accesses s = if s.wp.toNat < s.org.toNat + s.dist.toNat then []
      else if s.outEnd ≤ s.wp then [.outRead (matchSource s)]
      else [.outRead (matchSource s), .outWrite s.wp.toNat] := by
  simp only [accesses, pendingEvent, h]
  split_ifs <;> rfl

theorem accesses_read_of_no_event (h : s.active ∉ [Fsm.idle, .done, .fault, .lcopy, .mcopy])
    (hp : pendingEvent s = none) : accesses s = [.inRead s.rp.toNat] := by
  have hr : s.rp < s.inEnd := rp_lt_of_no_event hp (by simp_all)
  rw [accesses_read h, if_neg (BitVec.not_le.2 hr)]

theorem accesses_lcopy_of_no_event (h : s.active = .lcopy) (hp : pendingEvent s = none) :
    accesses s = [.inRead s.rp.toNat, .outWrite s.wp.toNat] := by simp only [accesses, h, hp]

theorem accesses_mcopy_of_no_event (h : s.active = .mcopy) (hp : pendingEvent s = none) :
    accesses s = [.outRead (matchSource s), .outWrite s.wp.toNat] := by simp only [accesses, h, hp, matchSource]

/-- All the accesses a micro-step can make, each with the test that came before it: none, an IN read with or without
an OUT write after it, or an OUT read with or without one. -/
theorem accesses_cases (s : State) :
    accesses s = [] ∨
    (s.rp < s.inEnd ∧ (accesses s = [.inRead s.rp.toNat] ∨
      (s.wp < s.outEnd ∧ accesses s = [.inRead s.rp.toNat, .outWrite s.wp.toNat]))) ∨
    (s.st = .mcopy ∧ s.org.toNat + s.dist.toNat ≤ s.wp.toNat ∧ (accesses s = [.outRead (matchSource s)] ∨
      (s.wp < s.outEnd ∧ accesses s = [.outRead (matchSource s), .outWrite s.wp.toNat]))) := by
  cases h : s.active
  case idle | done | fault => exact .inl (accesses_quiet (by simp [h]))
  case lcopy =>
    rw [accesses_lcopy h]
    split_ifs with hr hw
    · exact .inl rfl
    · exact .inr (.inl ⟨BitVec.not_le.1 hr, .inl rfl⟩)
    · exact .inr (.inl ⟨BitVec.not_le.1 hr, .inr ⟨BitVec.not_le.1 hw, rfl⟩⟩)
  case mcopy =>
    have hst := (st_of_active h (by decide)).2
    rw [accesses_mcopy h]
    split_ifs with ho hw
    · exact .inl rfl
    · exact .inr (.inr ⟨hst, Nat.not_lt.1 ho, .inl rfl⟩)
    · exact .inr (.inr ⟨hst, Nat.not_lt.1 ho, .inr ⟨BitVec.not_le.1 hw, rfl⟩⟩)
  all_goals
    rw [accesses_read (by simp [h])]
    split_ifs with hr
    · exact .inl rfl
    · exact .inr (.inl ⟨BitVec.not_le.1 hr, .inl rfl⟩)

/-! ### What a committed row does, by its accesses -/

/-- A row that changes an OUT byte writes that byte (20_memory.md R68, R71). -/
theorem outWrite_mem_of_readOut_ne (hp : pendingEvent s = none) {a : Nat}
    (ha : (commitRow s).readOut a ≠ s.readOut a) : Access.outWrite a ∈ accesses s := by
  have key {v : Byte} (hv : (commitRow s).outMem = s.outMem.writeOut s.wp.toNat v) : a = s.wp.toNat :=
    by_contra fun hne => ha ((State.readOut_congr hv a).trans (s.readOut_writeOut_other v hne))
  cases h : s.active
  case idle | done | fault => exact absurd (by simp only [commitRow, h]) ha
  case lcopy =>
    rw [key (congrArg State.outMem (commitRow_lcopy h))]
    simp [accesses_lcopy_of_no_event h hp]
  case mcopy =>
    rw [key (congrArg State.outMem (commitRow_mcopy h))]
    simp [accesses_mcopy_of_no_event h hp]
  all_goals exact absurd (State.readOut_congr (congrArg State.outMem (commitRow_read (by simp [h]))) a) ha

/-- A committed row moves the read cursor exactly when it reads IN (R70). -/
theorem rp_ne_iff_inRead_mem (hp : pendingEvent s = none) :
    (commitRow s).rp ≠ s.rp ↔ Access.inRead s.rp.toNat ∈ accesses s := by
  cases h : s.active
  case idle | done | fault => rw [accesses_quiet (by simp [h])]; simp [commitRow, h]
  case lcopy =>
    have hrp : (commitRow s).rp = s.rp + 1 := congrArg State.rp (commitRow_lcopy h)
    rw [hrp]; simp [accesses_lcopy_of_no_event h hp]
  case mcopy =>
    have hrp : (commitRow s).rp = s.rp := by rw [commitRow_mcopy h]; rfl
    rw [hrp]; simp [accesses_mcopy_of_no_event h hp]
  all_goals
    have hrp : (commitRow s).rp = s.rp + 1 := congrArg State.rp (commitRow_read (by simp [h]))
    rw [hrp]; simp [accesses_read_of_no_event (by simp [h]) hp]

end Sys2Proof.Machine

open Sys2Proof Sys2Proof.Machine

/-- Settles O49: the counts by the cases of the accesses, the rest by what a step can do. -/
theorem accessesAreOneBytePerPort : Obligations.AccessesAreOneBytePerPort := by
  unfold Obligations.AccessesAreOneBytePerPort
  refine ⟨fun s => ?_, fun s t hstep a ha => ?_, fun s t hstep hp => ?_⟩
  · rcases accesses_cases s with h | ⟨-, h | ⟨-, h⟩⟩ | ⟨-, -, h | ⟨-, h⟩⟩ <;> rw [h] <;>
      simp [List.filter_cons, Access.isInRead, Access.isOutRead, Access.isOutWrite]
  · rcases step_next_cases hstep with rfl | ⟨-, -, ⟨hp, rfl⟩ | ⟨-, e, -, rfl⟩⟩
    · exact absurd rfl ha
    · exact outWrite_mem_of_readOut_ne hp ha
    · exact absurd rfl ha
  · rw [step_eq_transition, transition_of_none hp] at hstep
    cases hstep
    exact rp_ne_iff_inRead_mem hp

/-- Settles O50: each access comes after the test that bounds it, and a distance of at least 1 keeps a match's source
below the write cursor. -/
theorem accessesStayInContract : Obligations.AccessesStayInContract := by
  unfold Obligations.AccessesStayInContract
  intro s hd a ha
  rcases accesses_cases s with h | ⟨hr, h⟩ | ⟨hst, ho, h⟩
  · rw [h] at ha; cases ha
  · rcases h with h | ⟨hw, h⟩ <;>
      simp only [h, List.mem_cons, List.not_mem_nil, or_false] at ha
    · subst ha; exact ⟨rfl, hr⟩
    · rcases ha with rfl | rfl
      · exact ⟨rfl, hr⟩
      · exact ⟨rfl, hw⟩
  · have hsrc : s.org.toNat ≤ matchSource s ∧ matchSource s < s.wp.toNat := by
      have := hd hst
      unfold matchSource; omega
    rcases h with h | ⟨hw, h⟩ <;>
      simp only [h, List.mem_cons, List.not_mem_nil, or_false] at ha
    · subst ha; exact hsrc
    · rcases ha with rfl | rfl
      · exact hsrc
      · exact ⟨rfl, hw⟩
end

section
/-! PROOF. The host's own accesses to IN and OUT: where they are allowed, where they stop, and what a read of OUT
shows (70_reset_and_hazards.md R285, R286, R288). -/

namespace Sys2Proof.Machine

open Sys2Proof

variable {s : State} {a b : Word} {v : Byte}

/-! ### Placing bytes -/

/-- With no run, or outside the range `[lo, hi)` a run forbids, there is no hazard (R285). -/
theorem not_hazard {lo hi : Word} (h : isBusy s = false ∨ a < lo ∨ hi ≤ a) :
    ¬ (isBusy s = true ∧ lo ≤ a ∧ a < hi) := by
  rintro ⟨hb, hlo, hhi⟩
  rcases h with h | h | h
  · rw [hb] at h; cases h
  · exact BitVec.not_le.2 h hlo
  · exact BitVec.not_lt.2 h hhi

theorem hostPlaceIn_of_allowed (ha : a.toNat < Config.inSize) (h : isBusy s = false ∨ a < s.rp0 ∨ s.inEnd ≤ a)
    (v : Byte) : hostPlaceIn s a v = .next { s with inMem := s.inMem.write a.toNat v } := by
  rcases hostPlaceIn_cases s a v with ⟨-, he⟩ | ⟨hle, -⟩ | ⟨hb, hlo, hhi, -⟩
  · exact he
  · omega
  · exact absurd ⟨hb, hlo, hhi⟩ (not_hazard h)

theorem hostPlaceIn_of_hazard (ha : a.toNat < Config.inSize) (hb : isBusy s = true) (hlo : s.rp0 ≤ a)
    (hhi : a < s.inEnd) (v : Byte) : hostPlaceIn s a v = .fault .hostHazard := by
  simp [hostPlaceIn, inExists, ha, hb, hlo, hhi]

theorem hostPlaceIn_of_le (ha : Config.inSize ≤ a.toNat) (s : State) (v : Byte) :
    hostPlaceIn s a v = .fault .noSuchAddress := by
  simp [hostPlaceIn, inExists, Nat.not_lt.2 ha]

/-- The state after the host places a byte in OUT (`hostPlaceOut_of_allowed`): the byte stands in every
OUT memory a read may show. -/
def State.placedOut (s : State) (a : Nat) (v : Byte) : State :=
  { s.writeOut a v with stale := s.stale.map fun m => m.writeOut a v }

theorem hostPlaceOut_of_allowed (ha : a.toNat < Config.outSize) (h : isBusy s = false ∨ a < s.org ∨ s.outEnd ≤ a)
    (v : Byte) : hostPlaceOut s a v = .next (s.placedOut a.toNat v) := by
  rcases hostPlaceOut_cases s a v with ⟨-, he⟩ | ⟨hle, -⟩ | ⟨hb, hlo, hhi, -⟩
  · exact he
  · omega
  · exact absurd ⟨hb, hlo, hhi⟩ (not_hazard h)

theorem hostPlaceOut_of_hazard (ha : a.toNat < Config.outSize) (hb : isBusy s = true) (hlo : s.org ≤ a)
    (hhi : a < s.outEnd) (v : Byte) : hostPlaceOut s a v = .fault .hostHazard := by
  simp [hostPlaceOut, outExists, ha, hb, hlo, hhi]

theorem hostPlaceOut_of_le (ha : Config.outSize ≤ a.toNat) (s : State) (v : Byte) :
    hostPlaceOut s a v = .fault .noSuchAddress := by
  simp [hostPlaceOut, outExists, Nat.not_lt.2 ha]

theorem State.readIn_write_same (s : State) (a : Nat) (v : Byte) :
    State.readIn { s with inMem := s.inMem.write a v } a = v := by
  simp [State.readIn, Mem.read_write_same]

theorem State.readIn_write_other (s : State) {a x : Nat} (h : x ≠ a) (v : Byte) :
    State.readIn { s with inMem := s.inMem.write a v } x = s.readIn x := by
  simp [State.readIn, Mem.read_write_other _ _ h]

/-! ### Reading OUT -/

theorem hostReadOut_of_lt (h : a.toNat < Config.outSize) (s : State) :
    hostReadOut s a = .ok (State.readOut { s with outMem := shownOut s } a.toNat) := by
  simp [hostReadOut, outExists, h]

theorem hostReadOut_of_le (h : Config.outSize ≤ a.toNat) (s : State) :
    hostReadOut s a = .error .noSuchAddress := by
  simp [hostReadOut, outExists, Nat.not_lt.2 h]

/-- With no older OUT memory to show, a host read shows the byte of now (20_memory.md R76). -/
theorem hostReadOut_of_seen (h : a.toNat < Config.outSize) (hs : s.stale = []) :
    hostReadOut s a = .ok (s.readOut a.toNat) := by
  rw [hostReadOut_of_lt h, shownOut_of_seen hs]

/-- Having seen the end, the host reads the byte of now (R76, R288). -/
theorem hostReadOut_seeEnd (h : a.toNat < Config.outSize) (s : State) :
    hostReadOut (seeEnd s) a = .ok (s.readOut a.toNat) := hostReadOut_of_seen (s := seeEnd s) h rfl

theorem shownOut_placedOut (s : State) (a : Nat) (v : Byte) :
    shownOut (s.placedOut a v) = (shownOut s).writeOut a v :=
  List.getD_map (s.outMem :: s.stale) s.outMem fun m => m.writeOut a v

/-- A read shows the byte the host placed, whichever memory it shows. -/
theorem hostReadOut_placedOut_same (h : a.toNat < Config.outSize) (s : State) (v : Byte) :
    hostReadOut (s.placedOut a.toNat v) a = .ok v := by
  rw [hostReadOut_of_lt h, shownOut_placedOut]
  exact congrArg Except.ok (State.readOut_writeOut_same { s with outMem := shownOut s } v h)

theorem hostReadOut_placedOut_other (h : b ≠ a) (s : State) (v : Byte) :
    hostReadOut (s.placedOut a.toNat v) b = hostReadOut s b := by
  rcases Nat.lt_or_ge b.toNat Config.outSize with hb | hb
  · rw [hostReadOut_of_lt hb, hostReadOut_of_lt hb, shownOut_placedOut]
    exact congrArg Except.ok
      (State.readOut_writeOut_other { s with outMem := shownOut s } v fun he => h (BitVec.eq_of_toNat_eq he))
  · rw [hostReadOut_of_le hb, hostReadOut_of_le hb]

/-! ### Seeing the end of a run -/

theorem hostStep_readStatus_idle (h : isBusy s = false) : hostStep (.readReg 4 0x04) s = .next (seeEnd s) :=
  (afterReadReg_ok (regAccessOk_aligned (by decide)) s).trans (by rw [if_pos ⟨rfl, h⟩])

theorem hostStep_readIrq_asserted (h : irq s = true) : hostStep .readIrq s = .next (seeEnd s) :=
  congrArg Host.Outcome.next (if_pos h)

theorem hostStep_readIrq_low (h : irq s = false) : hostStep .readIrq s = .next s :=
  congrArg Host.Outcome.next (if_neg (by simp [h]))

end Sys2Proof.Machine

open Sys2Proof Sys2Proof.Machine

/-- Settles O58, by the laws of placing and of reading. -/
theorem hostMemoryAccessesRespectTheRun : Obligations.HostMemoryAccessesRespectTheRun := by
  unfold Obligations.HostMemoryAccessesRespectTheRun
  refine ⟨⟨inSize_pos, sizes_le.1, outSize_pos, sizes_le.2⟩, fun s a v => ⟨fun ha hok => ?_, ?_, ?_,
    fun ha hok => ?_, ?_, fun ha => ?_, fun ha => ?_⟩, fun s => ⟨hostStep_readIrq_asserted, hostStep_readIrq_low⟩⟩
  · exact ⟨_, hostPlaceIn_of_allowed ha hok v, rfl, s.readIn_write_same _ v, fun x hx => s.readIn_write_other hx v⟩
  · exact fun ha hb hlo hhi => hostPlaceIn_of_hazard ha hb hlo hhi v
  · exact fun ha => hostPlaceIn_of_le ha s v
  · exact ⟨s.placedOut a.toNat v, hostPlaceOut_of_allowed ha hok v, rfl, s.readOut_writeOut_same v ha,
      hostReadOut_placedOut_same ha s v, fun x hx => s.readOut_writeOut_other v hx,
      fun b hb => hostReadOut_placedOut_other hb s v⟩
  · exact fun ha hb hlo hhi => hostPlaceOut_of_hazard ha hb hlo hhi v
  · exact ⟨hostPlaceOut_of_le ha s v, afterReadOut_of_le ha s, hostReadOut_of_le ha s⟩
  · refine ⟨afterReadOut_of_lt ha s, ⟨shownOut s, shownOut_mem s, hostReadOut_of_lt ha s⟩, hostReadOut_of_seen ha,
      fun t hb ht => ?_, fun t hi ht => ?_⟩
    · rw [hostStep_readStatus_idle hb] at ht; cases ht
      exact hostReadOut_seeEnd ha s
    · rw [hostStep_readIrq_asserted hi] at ht; cases ht
      exact hostReadOut_seeEnd ha s
end

section
/-! PROOF. The decoder and the encoder are inverse (30_encoding.md R91 to R94, R97, R102): the token behaviours by
their three fields, then the other spaces form by form, then the two obligations. -/

namespace Sys2Proof

open Machine

variable {i : Instr} {sp : Space} {bs rest : List Byte}

/-! ### A token by its fields -/

@[simp] theorem encode_tokenInstr (o : Bool) (l : BitVec 3) (m : BitVec 4) :
    encode (tokenInstr o l m) = [tokByte o l m] := by
  revert o l m; decide

@[simp] theorem tokenWide_tokenInstr (o : Bool) (l : BitVec 3) (m : BitVec 4) : tokenWide (tokenInstr o l m) = o := by
  revert o l m; decide

theorem tokenLits_tokenInstr (o : Bool) (l : BitVec 3) (m : BitVec 4) :
    tokenLits (tokenInstr o l m) = if l = 7 then none else some l.toNat := by
  revert o l m; decide

theorem tokenMatch_tokenInstr (o : Bool) (l : BitVec 3) (m : BitVec 4) :
    tokenMatch (tokenInstr o l m) = if m = 15 then none else some (m.toNat + 3) := by
  revert o l m; decide

/-- A well-formed token is the behaviour its own fields select (40_dispatch.md R123). -/
theorem exists_eq_tokenInstr (hs : i.space = .token) (hw : i.wf = true) :
    ∃ (o : Bool) (l : BitVec 3) (m : BitVec 4), i = tokenInstr o l m := by
  have inline : ∀ m : BitVec 4, (m != 15) = true → ¬ m = 15 := fun m h => bne_iff_ne.1 h
  cases i with
  | tokL0M o m => exact ⟨o, 0, m, (if_neg (inline m hw)).symm⟩
  | tokL1M o m => exact ⟨o, 1, m, (if_neg (inline m hw)).symm⟩
  | tokL2M o m => exact ⟨o, 2, m, (if_neg (inline m hw)).symm⟩
  | tokL3M o m => exact ⟨o, 3, m, (if_neg (inline m hw)).symm⟩
  | tokL4M o m => exact ⟨o, 4, m, (if_neg (inline m hw)).symm⟩
  | tokL5M o m => exact ⟨o, 5, m, (if_neg (inline m hw)).symm⟩
  | tokL6M o m => exact ⟨o, 6, m, (if_neg (inline m hw)).symm⟩
  | tokLXM o m => exact ⟨o, 7, m, (if_neg (inline m hw)).symm⟩
  | tokL0MX o => exact ⟨o, 0, 15, rfl⟩
  | tokL1MX o => exact ⟨o, 1, 15, rfl⟩
  | tokL2MX o => exact ⟨o, 2, 15, rfl⟩
  | tokL3MX o => exact ⟨o, 3, 15, rfl⟩
  | tokL4MX o => exact ⟨o, 4, 15, rfl⟩
  | tokL5MX o => exact ⟨o, 5, 15, rfl⟩
  | tokL6MX o => exact ⟨o, 6, 15, rfl⟩
  | tokLXMX o => exact ⟨o, 7, 15, rfl⟩
  | _ => cases hs

/-! ### The extensions by their first byte -/

theorem decodeAt_lextShort {e : Byte} (h : e.toNat ≤ 248) (b1 b2 : Byte) :
    decodeAt .litExt e b1 b2 = .lextShort e := if_pos h

theorem decodeAt_lextRsvd {e : Byte} (h : 251 ≤ e.toNat) (b1 b2 : Byte) :
    decodeAt .litExt e b1 b2 = .lextRsvd e := by
  have h0 : ¬ e.toNat ≤ 248 := by omega
  have h1 : e ≠ 250 := by rintro rfl; simp at h
  have h2 : e ≠ 249 := by rintro rfl; simp at h
  simp only [decodeAt, h0, h1, h2, if_false]

theorem decodeAt_mextShort {e : Byte} (h : e.toNat ≤ 237) (b1 b2 : Byte) :
    decodeAt .matchExt e b1 b2 = .mextShort e := if_pos h

theorem decodeAt_mextRsvd {e : Byte} (h : 240 ≤ e.toNat) (b1 b2 : Byte) :
    decodeAt .matchExt e b1 b2 = .mextRsvd e := by
  have h0 : ¬ e.toNat ≤ 237 := by omega
  have h1 : e ≠ 238 := by rintro rfl; simp at h
  have h2 : e ≠ 239 := by rintro rfl; simp at h
  simp only [decodeAt, h0, h1, h2, if_false]

theorem mextWord_wf_iff {lo hi : Byte} : (Instr.mextWord lo hi).wf = true ↔ ¬ (lo = 0 ∧ hi = 0) := by
  simp [Instr.wf, imp_iff_not_or]

theorem decodeAt_mextWord {lo hi : Byte} (h : ¬ (lo = 0 ∧ hi = 0)) :
    decodeAt .matchExt 0xEE lo hi = .mextWord lo hi := if_neg h

/-- The literal extension's rows, by the first byte (30_encoding.md R93). -/
theorem decodeAt_litExt_cases (b0 b1 b2 : Byte) :
    (b0.toNat ≤ 248 ∧ decodeAt .litExt b0 b1 b2 = .lextShort b0) ∨
    (b0 = 0xFA ∧ decodeAt .litExt b0 b1 b2 = .lextByte b1) ∨
    (b0 = 0xF9 ∧ decodeAt .litExt b0 b1 b2 = .lextWord b1 b2) ∨
    (251 ≤ b0.toNat ∧ decodeAt .litExt b0 b1 b2 = .lextRsvd b0) := by
  by_cases h0 : b0.toNat ≤ 248
  · exact .inl ⟨h0, decodeAt_lextShort h0 b1 b2⟩
  by_cases h1 : b0 = 0xFA
  · subst h1; exact .inr (.inl ⟨rfl, rfl⟩)
  by_cases h2 : b0 = 0xF9
  · subst h2; exact .inr (.inr (.inl ⟨rfl, rfl⟩))
  · have h : 251 ≤ b0.toNat := by bv_omega
    exact .inr (.inr (.inr ⟨h, decodeAt_lextRsvd h b1 b2⟩))

/-- The match extension's rows, by the first byte, with the sentinel (30_encoding.md R94). -/
theorem decodeAt_matchExt_cases (b0 b1 b2 : Byte) :
    (b0.toNat ≤ 237 ∧ decodeAt .matchExt b0 b1 b2 = .mextShort b0) ∨
    (b0 = 0xEE ∧ b1 = 0 ∧ b2 = 0 ∧ decodeAt .matchExt b0 b1 b2 = .mextEod) ∨
    (b0 = 0xEE ∧ ¬ (b1 = 0 ∧ b2 = 0) ∧ decodeAt .matchExt b0 b1 b2 = .mextWord b1 b2) ∨
    (b0 = 0xEF ∧ decodeAt .matchExt b0 b1 b2 = .mextByte b1) ∨
    (240 ≤ b0.toNat ∧ decodeAt .matchExt b0 b1 b2 = .mextRsvd b0) := by
  by_cases h0 : b0.toNat ≤ 237
  · exact .inl ⟨h0, decodeAt_mextShort h0 b1 b2⟩
  by_cases h1 : b0 = 0xEE
  · subst h1
    by_cases hz : b1 = 0 ∧ b2 = 0
    · obtain ⟨rfl, rfl⟩ := hz; exact .inr (.inl ⟨rfl, rfl, rfl, rfl⟩)
    · exact .inr (.inr (.inl ⟨rfl, hz, decodeAt_mextWord hz⟩))
  by_cases h2 : b0 = 0xEF
  · subst h2; exact .inr (.inr (.inr (.inl ⟨rfl, rfl⟩)))
  · have h : 240 ≤ b0.toNat := by bv_omega
    exact .inr (.inr (.inr (.inr ⟨h, decodeAt_mextRsvd h b1 b2⟩)))

/-! ### The window and the bytes -/

theorem encode_length (i : Instr) : (encode i).length = i.size := by cases i <;> rfl

/-- A well-formed instruction is what its bytes decode to, whatever fills the rest of the window. -/
theorem decodeAt_encode (hw : i.wf = true) (rest : List Byte) :
    decodeAt i.space ((encode i ++ rest).getD 0 0) ((encode i ++ rest).getD 1 0) ((encode i ++ rest).getD 2 0) = i := by
  by_cases hs : i.space = .token
  · obtain ⟨o, l, m, rfl⟩ := exists_eq_tokenInstr hs hw
    simp [hs, decodeAt]
  · cases i with
    | ofs8 | ofs16 | lextWord | lextByte | mextEod | mextByte => rfl
    | lextShort e => exact decodeAt_lextShort (of_decide_eq_true hw) _ _
    | lextRsvd e => exact decodeAt_lextRsvd (of_decide_eq_true hw) _ _
    | mextShort e => exact decodeAt_mextShort (of_decide_eq_true hw) _ _
    | mextRsvd e => exact decodeAt_mextRsvd (of_decide_eq_true hw) _ _
    | mextWord lo hi => exact decodeAt_mextWord (mextWord_wf_iff.1 hw)
    | _ => exact absurd rfl hs

/-- What a window decodes to is well formed, and its bytes are the window's first ones. -/
theorem decodeAt_wf_encode (sp : Space) (b0 b1 b2 : Byte) : (decodeAt sp b0 b1 b2).wf = true ∧
    encode (decodeAt sp b0 b1 b2) = [b0, b1, b2].take (decodeAt sp b0 b1 b2).size := by
  cases sp with
  | token =>
    refine ⟨tokenInstr_wf _ _ _, ?_⟩
    simp only [decodeAt, encode_tokenInstr, tokByte_fields, (tokenInstr_space _ _ _).2, List.take]
  | ofs w => cases w <;> exact ⟨rfl, rfl⟩
  | litExt =>
    obtain ⟨h, e⟩ | ⟨rfl, e⟩ | ⟨rfl, e⟩ | ⟨h, e⟩ := decodeAt_litExt_cases b0 b1 b2 <;> rw [e]
    · exact ⟨decide_eq_true h, rfl⟩
    · exact ⟨rfl, rfl⟩
    · exact ⟨rfl, rfl⟩
    · exact ⟨decide_eq_true h, rfl⟩
  | matchExt =>
    obtain ⟨h, e⟩ | ⟨rfl, rfl, rfl, e⟩ | ⟨rfl, h, e⟩ | ⟨rfl, e⟩ | ⟨h, e⟩ :=
      decodeAt_matchExt_cases b0 b1 b2 <;> rw [e]
    · exact ⟨decide_eq_true h, rfl⟩
    · exact ⟨rfl, rfl⟩
    · exact ⟨mextWord_wf_iff.2 h, rfl⟩
    · exact ⟨rfl, rfl⟩
    · exact ⟨decide_eq_true h, rfl⟩

/-- The decoder reads the window at the head of the list, and answers when the instruction there is whole. -/
theorem decode_eq_ok_iff : decode sp bs = .ok (i, rest) ↔
    decodeAt sp (bs.getD 0 0) (bs.getD 1 0) (bs.getD 2 0) = i ∧ i.size ≤ bs.length ∧ bs.drop i.size = rest := by
  cases bs with
  | nil =>
    have := size_pos i
    simp [decode]; omega
  | cons b0 bs =>
    simp only [decode, List.getD_cons_zero, List.getD_cons_succ]
    split
    · rename_i h
      refine ⟨nofun, ?_⟩
      rintro ⟨rfl, hl, -⟩
      omega
    · rename_i h
      constructor
      · intro he; cases he; exact ⟨rfl, not_lt.1 h, rfl⟩
      · rintro ⟨rfl, -, rfl⟩; rfl

theorem take_window {n : Nat} (hn : n ≤ 3) (hl : n ≤ bs.length) :
    [bs.getD 0 0, bs.getD 1 0, bs.getD 2 0].take n = bs.take n := by
  apply List.ext_getElem
  · simp; omega
  · intro k hk _
    have hk : k < n := by simp at hk; omega
    have : k = 0 ∨ k = 1 ∨ k = 2 := by omega
    rcases this with rfl | rfl | rfl <;> simp [List.getD_eq_getElem?_getD, List.getElem?_eq_getElem (hk.trans_le hl)]

end Sys2Proof

open Sys2Proof Sys2Proof.Machine

/-- Settles O1: the window decodes to the instruction, and its bytes are as many as its size. -/
theorem decodeInvertsEncode : Obligations.DecodeInvertsEncode := by
  unfold Obligations.DecodeInvertsEncode
  intro i hw rest
  refine decode_eq_ok_iff.2 ⟨decodeAt_encode hw rest, ?_, ?_⟩
  · simp [encode_length]
  · rw [← encode_length, List.drop_left]

/-- Settles O2: the instruction's bytes are the window's first ones, and those are the list's. -/
theorem encodeInvertsDecode : Obligations.EncodeInvertsDecode := by
  unfold Obligations.EncodeInvertsDecode
  intro sp bs rest i h
  obtain ⟨rfl, hl, rfl⟩ := decode_eq_ok_iff.1 h
  obtain ⟨hw, he⟩ := decodeAt_wf_encode sp (bs.getD 0 0) (bs.getD 1 0) (bs.getD 2 0)
  refine ⟨hw, decodeAt_space _ _ _ _, ?_⟩
  rw [he, take_window (size_le _) hl, List.take_append_drop]

/-- Settles O3: each word's bits, written out, are evaluated by the decoder. -/
theorem specWordsDecodeRight : Obligations.SpecWordsDecodeRight := by
  unfold Obligations.SpecWordsDecodeRight
  exact ⟨rfl, rfl, rfl, rfl, rfl, rfl, rfl, rfl, rfl, rfl, rfl, rfl, rfl, rfl, rfl⟩
end

section
/-! PROOF. Token records (30_encoding.md R95, R96, R102): what reading each field answers, as an equivalence with
the bytes it has; then that the reader inverts the bytes, and the lengths. -/

namespace Sys2Proof.Machine

open Sys2Proof

variable {r : Record} {i : Instr} {sp : Space} {bs rest : List Byte} {n : Nat}

/-! ### Reading the fields -/

/-- Taking an instruction is splitting the list after its bytes: the decoder and the encoder are inverse. -/
theorem takeInstr_eq_some_iff :
    takeInstr sp bs = some (i, rest) ↔ i.space = sp ∧ i.wf = true ∧ encode i ++ rest = bs := by
  have hd : takeInstr sp bs = some (i, rest) ↔ decode sp bs = .ok (i, rest) := by
    cases h : decode sp bs <;> simp [takeInstr, h, Except.toOption]
  rw [hd]
  constructor
  · intro h
    obtain ⟨hw, hs, hb⟩ := encodeInvertsDecode sp bs rest i h
    exact ⟨hs, hw, hb⟩
  · rintro ⟨rfl, hw, rfl⟩
    exact decodeInvertsEncode i hw rest

theorem takeLits_eq_some_iff : takeLits r.tok bs = some (r.lext, n, rest) ↔
    r.lext.all (fun x => x.space == .litExt && x.wf) = true ∧ r.llen = some n ∧
      (r.lext.map encode).getD [] ++ rest = bs := by
  cases ht : tokenLits r.tok with
  | none =>
    cases hx : r.lext with
    | none => simp [takeLits, Record.llen, ht, hx, Option.bind_eq_some_iff]
    | some x => simp [takeLits, Record.llen, ht, hx, Option.bind_eq_some_iff, takeInstr_eq_some_iff]; tauto
  | some k =>
    cases hx : r.lext with
    | none => simp [takeLits, Record.llen, ht, hx, eq_comm]
    | some x => simp [takeLits, Record.llen, ht, hx]

theorem takeMatch_eq_some_iff : takeMatch r.tok bs = some (r.mext, rest) ↔
    r.mext.all (fun x => x.space == .matchExt && x.wf) = true ∧ r.ending.isSome = true ∧
      (r.mext.map encode).getD [] ++ rest = bs := by
  cases ht : tokenMatch r.tok with
  | none =>
    cases hx : r.mext with
    | none => simp [takeMatch, Record.ending, ht, hx, Option.bind_eq_some_iff]
    | some x =>
      simp [takeMatch, Record.ending, ht, hx, Option.bind_eq_some_iff, takeInstr_eq_some_iff, Option.isSome_iff_exists]
      tauto
  | some k =>
    cases hx : r.mext with
    | none => simp [takeMatch, Record.ending, ht, hx, eq_comm]
    | some x => simp [takeMatch, Record.ending, ht, hx]

/-- The reader takes the five fields in order, each from what the one before it left. -/
theorem takeRecord_eq_some_iff_fields : takeRecord bs = some (r, rest) ↔
    ∃ bs1 n bs2 bs3, takeInstr .token bs = some (r.tok, bs1) ∧ takeLits r.tok bs1 = some (r.lext, n, bs2) ∧
      n ≤ bs2.length ∧ takeInstr (.ofs (tokenWide r.tok)) (bs2.drop n) = some (r.ofs, bs3) ∧
      takeMatch r.tok bs3 = some (r.mext, rest) ∧ bs2.take n = r.lits := by
  obtain ⟨t, lx, lits, o, mx⟩ := r
  simp [takeRecord, Option.bind_eq_some_iff]

/-! ### Well-formed records -/

theorem Record.wf_iff : r.wf = true ↔
    r.tok.space = .token ∧ r.tok.wf = true ∧ r.lext.all (fun x => x.space == .litExt && x.wf) = true ∧
      r.llen = some r.lits.length ∧ r.ofs.space = .ofs (tokenWide r.tok) ∧
      r.mext.all (fun x => x.space == .matchExt && x.wf) = true ∧ r.ending.isSome = true := by
  simp only [Record.wf, Bool.and_eq_true, beq_iff_eq, and_assoc]

theorem size_of_token (hs : i.space = .token) (hw : i.wf = true) : i.size = 1 := by
  obtain ⟨o, l, m, rfl⟩ := exists_eq_tokenInstr hs hw
  exact (tokenInstr_space o l m).2

/-- Every offset byte is an offset (30_encoding.md R97). -/
theorem wf_size_of_ofs {w : Bool} (h : i.space = .ofs w) : i.wf = true ∧ i.size = 1 + w.toNat := by
  cases i with
  | ofs8 lo => cases h; exact ⟨rfl, rfl⟩
  | ofs16 lo hi => cases h; exact ⟨rfl, rfl⟩
  | _ => cases h

/-- Taking a record is splitting the list after the bytes of a well-formed record. -/
theorem takeRecord_eq_some_iff : takeRecord bs = some (r, rest) ↔ r.wf = true ∧ r.bytes ++ rest = bs := by
  simp only [takeRecord_eq_some_iff_fields, takeInstr_eq_some_iff, takeLits_eq_some_iff, takeMatch_eq_some_iff,
    Record.wf_iff, Record.bytes, List.append_assoc]
  constructor
  · rintro ⟨bs1, n, bs2, bs3, ⟨hts, htw, rfl⟩, ⟨hx, hn, rfl⟩, hle, ⟨hos, -, ho⟩, ⟨hm, he, rfl⟩, hlits⟩
    have hlen : r.lits.length = n := by rw [← hlits, List.length_take, min_eq_left hle]
    refine ⟨⟨hts, htw, hx, hlen ▸ hn, hos, hm, he⟩, ?_⟩
    rw [ho, ← hlits, List.take_append_drop]
  · rintro ⟨⟨hts, htw, hx, hn, hos, hm, he⟩, rfl⟩
    exact ⟨_, r.lits.length, _, _, ⟨hts, htw, rfl⟩, ⟨hx, hn, rfl⟩, by simp,
      ⟨hos, (wf_size_of_ofs hos).1, by simp⟩, ⟨hm, he, rfl⟩, by simp⟩

/-! ### Lengths -/

theorem length_getD_encode (x : Option Instr) : ((x.map encode).getD []).length = extBytes x := by
  cases x with
  | none => rfl
  | some x => exact encode_length x

theorem extBytes_le (x : Option Instr) : extBytes x ≤ 3 := by
  cases x with
  | none => exact Nat.zero_le 3
  | some x => exact size_le x

/-- A record's bytes add up as 30_encoding.md R96 says. -/
theorem Record.length_bytes (h : r.wf = true) : r.bytes.length = r.length := by
  obtain ⟨hs, hw, -, -, ho, -, -⟩ := Record.wf_iff.1 h
  simp only [Record.bytes, Record.length, List.length_append, encode_length, length_getD_encode, size_of_token hs hw,
    (wf_size_of_ofs ho).2]

theorem tokenLits_le (h : tokenLits i = some n) : n ≤ 6 := by
  cases i <;> simp [tokenLits] at h <;> omega

/-- The longest literal length is a word's. -/
theorem lextLits_le (h : lextLits i = some n) : n ≤ 65535 := by
  cases i with
  | lextShort e => cases h; have := e.isLt; omega
  | lextByte f => cases h; have := f.isLt; omega
  | lextWord lo hi => cases h; have := lo.isLt; have := hi.isLt; omega
  | _ => cases h

theorem Record.llen_le (h : r.llen = some n) : n ≤ 65535 := by
  unfold Record.llen at h
  split at h
  · rename_i ht _
    exact (tokenLits_le (ht.trans h)).trans (by decide)
  · exact lextLits_le h
  · cases h

/-- A record of two bytes: no literal, an inline match, a one-byte offset. -/
def shortestRecord : Record := ⟨.tokL0M false 0, none, [], .ofs8 0, none⟩

/-- A record of 65544 bytes: every field in its longest form, 65535 literals. -/
def longestRecord : Record :=
  ⟨.tokLXMX true, some (.lextWord 255 255), List.replicate 65535 0, .ofs16 0 0, some .mextEod⟩

theorem longestRecord_wf : longestRecord.wf = true :=
  Record.wf_iff.2 ⟨rfl, rfl, rfl, congrArg some List.length_replicate.symm, rfl, rfl, rfl⟩

theorem longestRecord_length : longestRecord.length = 65544 := by
  have hx : extBytes longestRecord.lext = 3 := rfl
  have hl : longestRecord.lits.length = 65535 := List.length_replicate
  have hw : tokenWide longestRecord.tok = true := rfl
  have hm : extBytes longestRecord.mext = 3 := rfl
  rw [Record.length, hx, hl, hw, hm, Bool.toNat_true]

end Sys2Proof.Machine

open Sys2Proof Sys2Proof.Machine

/-- Settles O32: taking a record is splitting the list after its bytes, read in the two directions. -/
theorem recordsReadBack : Obligations.RecordsReadBack := by
  unfold Obligations.RecordsReadBack
  exact ⟨fun r rest hw => takeRecord_eq_some_iff.2 ⟨hw, rfl⟩, fun bs rest r h => takeRecord_eq_some_iff.1 h⟩

/-- Settles O31: the sizes of the fields add, an extension has at most three bytes and there are at most 65535
literals; the shortest and the longest record are witnesses. -/
theorem recordLengthsAdd : Obligations.RecordLengthsAdd := by
  unfold Obligations.RecordLengthsAdd
  refine ⟨fun r hw => ?_, ⟨shortestRecord, by decide, by decide⟩, ⟨longestRecord, longestRecord_wf, ?_⟩⟩
  · obtain ⟨-, -, -, hn, -, -, -⟩ := Record.wf_iff.1 hw
    have hl := Record.length_bytes hw
    have hlits := Record.llen_le hn
    have hx := extBytes_le r.lext
    have hm := extBytes_le r.mext
    have hwide := Bool.toNat_le (tokenWide r.tok)
    refine ⟨hl, hx, hm, ?_, ?_⟩ <;> rw [hl, Record.length] <;> omega
  · rw [Record.length_bytes longestRecord_wf, longestRecord_length]
end

section
/-! PROOF. The records of `seq` and `eod` (30_encoding.md R103 to R105): the canonical literals, the canonical match
and the offset, each apart from the rest of the record, then the two kinds of record. -/

namespace Sys2Proof.Machine

open Sys2Proof

variable {r : Record} {o : Bool} {l : BitVec 3} {m : BitVec 4} {k n d : Nat}

theorem ofNat8_mod (n : Nat) : BitVec.ofNat 8 (n % 256) = BitVec.ofNat 8 n := by
  apply BitVec.eq_of_toNat_eq; simp

/-! ### Literals -/

theorem canonLits_inline (h : k ≤ 6) : canonLits k = (BitVec.ofNat 3 k, none) := if_pos h

theorem canonLits_short (h7 : 7 ≤ k) (h : k ≤ 255) :
    canonLits k = (7, some (.lextShort (BitVec.ofNat 8 (k - 7)))) := by
  rw [canonLits, if_neg (by omega), if_pos h]

theorem canonLits_byte (h256 : 256 ≤ k) (h : k ≤ 511) :
    canonLits k = (7, some (.lextByte (BitVec.ofNat 8 (k - 256)))) := by
  rw [canonLits, if_neg (by omega), if_neg (by omega), if_pos h]

theorem canonLits_word (h : 512 ≤ k) :
    canonLits k = (7, some (.lextWord (BitVec.ofNat 8 (k % 256)) (BitVec.ofNat 8 (k / 256)))) := by
  rw [canonLits, if_neg (by omega), if_neg (by omega), if_neg (by omega), ofNat8_mod]

theorem tokenLits_extended : tokenLits (tokenInstr o 7 m) = none := tokenLits_tokenInstr o 7 m

theorem tokenLits_inline (h : k ≤ 6) : tokenLits (tokenInstr o (BitVec.ofNat 3 k) m) = some k := by
  have hk : (BitVec.ofNat 3 k).toNat = k := by simp; omega
  rw [tokenLits_tokenInstr, if_neg (fun h7 => by rw [h7] at hk; simp at hk; omega), hk]

/-- The record's literal field and extension are the canonical ones for its literals (R105). -/
def Record.CanonicalLits (r : Record) : Prop :=
  ∃ (o : Bool) (m : BitVec 4), r.tok = tokenInstr o (canonLits r.lits.length).1 m ∧
    r.lext = (canonLits r.lits.length).2

theorem Record.CanonicalLits.inline (h : r.CanonicalLits) (hk : r.lits.length ≤ 6) :
    tokenLits r.tok = some r.lits.length ∧ r.lext = none := by
  obtain ⟨o, m, ht, hx⟩ := h
  rw [canonLits_inline hk] at ht hx
  exact ⟨ht ▸ tokenLits_inline hk, hx⟩

/-- From seven literals on there is an extension. -/
theorem Record.CanonicalLits.extended {x : Option Instr} (h : r.CanonicalLits)
    (hc : canonLits r.lits.length = (7, x)) : tokenLits r.tok = none ∧ r.lext = x := by
  obtain ⟨o, m, ht, hx⟩ := h
  rw [hc] at ht hx
  exact ⟨ht ▸ tokenLits_extended, hx⟩

/-- The canonical literal forms give the length they were chosen for, in a well-formed extension. -/
theorem Record.CanonicalLits.llen (h : r.CanonicalLits) (hk : r.lits.length ≤ 65535) :
    r.llen = some r.lits.length ∧ r.lext.all (fun x => x.space == .litExt && x.wf) = true := by
  generalize hn : r.lits.length = k at hk
  have hform : k ≤ 6 ∨ 7 ≤ k ∧ k ≤ 255 ∨ 256 ≤ k ∧ k ≤ 511 ∨ 512 ≤ k := by omega
  obtain hk' | ⟨hlo, hhi⟩ | ⟨hlo, hhi⟩ | hlo := hform
  · obtain ⟨ht, hx⟩ := h.inline (hn ▸ hk')
    simp [Record.llen, ht, hx, hn]
  · obtain ⟨ht, hx⟩ := h.extended (hn ▸ canonLits_short hlo hhi)
    simp [Record.llen, ht, hx, lextLits, Instr.space, Instr.wf]; omega
  · obtain ⟨ht, hx⟩ := h.extended (hn ▸ canonLits_byte hlo hhi)
    simp [Record.llen, ht, hx, lextLits, Instr.space, Instr.wf]; omega
  · obtain ⟨ht, hx⟩ := h.extended (hn ▸ canonLits_word hlo)
    simp [Record.llen, ht, hx, lextLits, Instr.space, Instr.wf]; omega

/-! ### Matches -/

theorem canonMatch_inline (h3 : 3 ≤ n) (h : n ≤ 17) : canonMatch n = (BitVec.ofNat 4 (n - 3), none) := if_pos ⟨h3, h⟩

theorem canonMatch_short (h18 : 18 ≤ n) (h : n ≤ 255) :
    canonMatch n = (15, some (.mextShort (BitVec.ofNat 8 (n - 18)))) := by
  rw [canonMatch, if_neg (by omega), if_pos ⟨h18, h⟩]

theorem canonMatch_byte (h256 : 256 ≤ n) (h : n ≤ 511) :
    canonMatch n = (15, some (.mextByte (BitVec.ofNat 8 (n - 256)))) := by
  rw [canonMatch, if_neg (by omega), if_neg (by omega), if_pos ⟨h256, h⟩]

theorem canonMatch_word (h : n ≤ 2 ∨ 512 ≤ n) :
    canonMatch n = (15, some (.mextWord (BitVec.ofNat 8 (n % 256)) (BitVec.ofNat 8 (n / 256)))) := by
  rw [canonMatch, if_neg (by omega), if_neg (by omega), if_neg (by omega), ofNat8_mod]

theorem tokenMatch_extended : tokenMatch (tokenInstr o l 15) = none := tokenMatch_tokenInstr o l 15

theorem tokenMatch_inline (h3 : 3 ≤ n) (h : n ≤ 17) :
    tokenMatch (tokenInstr o l (BitVec.ofNat 4 (n - 3))) = some n := by
  have hn : (BitVec.ofNat 4 (n - 3)).toNat = n - 3 := by simp; omega
  rw [tokenMatch_tokenInstr, if_neg (fun h15 => by rw [h15] at hn; simp at hn; omega), hn, Nat.sub_add_cancel h3]

/-- The record's match field and extension are the canonical ones for a length (R105). -/
def Record.CanonicalMatch (r : Record) (n : Nat) : Prop :=
  ∃ (o : Bool) (l : BitVec 3), r.tok = tokenInstr o l (canonMatch n).1 ∧ r.mext = (canonMatch n).2

theorem Record.CanonicalMatch.inline (h : r.CanonicalMatch n) (h3 : 3 ≤ n) (hn : n ≤ 17) :
    tokenMatch r.tok = some n ∧ r.mext = none := by
  obtain ⟨o, l, ht, hx⟩ := h
  rw [canonMatch_inline h3 hn] at ht hx
  exact ⟨ht ▸ tokenMatch_inline h3 hn, hx⟩

/-- Outside 3 to 17 there is an extension. -/
theorem Record.CanonicalMatch.extended {x : Option Instr} (h : r.CanonicalMatch n) (hc : canonMatch n = (15, x)) :
    tokenMatch r.tok = none ∧ r.mext = x := by
  obtain ⟨o, l, ht, hx⟩ := h
  rw [hc] at ht hx
  exact ⟨ht ▸ tokenMatch_extended, hx⟩

/-- The canonical match forms give the length they were chosen for, in a well-formed extension; zero is left out, for
its word is the sentinel (R194). -/
theorem Record.CanonicalMatch.ending (h : r.CanonicalMatch n) (h1 : 1 ≤ n) (hn : n ≤ 65535) :
    r.ending = some (.copy n) ∧ r.mext.all (fun x => x.space == .matchExt && x.wf) = true := by
  have hform : 3 ≤ n ∧ n ≤ 17 ∨ 18 ≤ n ∧ n ≤ 255 ∨ 256 ≤ n ∧ n ≤ 511 ∨ (n ≤ 2 ∨ 512 ≤ n) := by omega
  obtain ⟨hlo, hhi⟩ | ⟨hlo, hhi⟩ | ⟨hlo, hhi⟩ | hw := hform
  · obtain ⟨ht, hx⟩ := h.inline hlo hhi
    simp [Record.ending, ht, hx]
  · obtain ⟨ht, hx⟩ := h.extended (canonMatch_short hlo hhi)
    simp [Record.ending, ht, hx, mextMatch, Instr.space, Instr.wf]; omega
  · obtain ⟨ht, hx⟩ := h.extended (canonMatch_byte hlo hhi)
    simp [Record.ending, ht, hx, mextMatch, Instr.space, Instr.wf]; omega
  · obtain ⟨ht, hx⟩ := h.extended (canonMatch_word hw)
    have hz : ¬ (BitVec.ofNat 8 (n % 256) = 0 ∧ BitVec.ofNat 8 (n / 256) = 0) := by bv_omega
    simp [Record.ending, ht, hx, mextMatch, Instr.space, mextWord_wf_iff.2 hz]; omega

/-! ### Offsets -/

theorem ofsDist_asmOfs8 (h1 : 1 ≤ d) (hd : d ≤ 256) : ofsDist (asmOfs8 d) = some d := by
  simp [ofsDist, asmOfs8]; omega

theorem ofsDist_asmOfs16 (h1 : 1 ≤ d) (hd : d ≤ 65536) : ofsDist (asmOfs16 d) = some d := by
  simp [ofsDist, asmOfs16]; omega

theorem asmOfs16_eq (d : Nat) :
    asmOfs16 d = .ofs16 (BitVec.ofNat 8 ((65536 - d) % 256)) (BitVec.ofNat 8 ((65536 - d) / 256)) := by
  rw [ofNat8_mod]; rfl

/-! ### The two kinds of record -/

variable {lits : List Byte}

theorem eodRecord_tok : (eodRecord lits).tok = tokenInstr false (canonLits lits.length).1 15 := rfl

theorem seqRecord_canonicalLits : (seqRecord lits d n).CanonicalLits := ⟨_, _, rfl, rfl⟩

theorem eodRecord_canonicalLits : (eodRecord lits).CanonicalLits := ⟨_, _, eodRecord_tok, rfl⟩

theorem seqRecord_canonicalMatch : (seqRecord lits d n).CanonicalMatch n := ⟨_, _, rfl, rfl⟩

theorem tokenWide_seqRecord : tokenWide (seqRecord lits d n).tok = decide (256 < d) := tokenWide_tokenInstr _ _ _

theorem tokenWide_eodRecord : tokenWide (eodRecord lits).tok = false := by
  rw [eodRecord_tok, tokenWide_tokenInstr]

theorem tokenMatch_eodRecord : tokenMatch (eodRecord lits).tok = none := by
  rw [eodRecord_tok, tokenMatch_extended]

/-- A distance to 256 is one byte, O = 0 (R105). -/
theorem seqRecord_near (hd : d ≤ 256) :
    tokenWide (seqRecord lits d n).tok = false ∧ (seqRecord lits d n).ofs = asmOfs8 d :=
  ⟨tokenWide_seqRecord.trans (decide_eq_false (not_lt.2 hd)), if_pos hd⟩

/-- A distance from 257 is two bytes, O = 1 (R105). -/
theorem seqRecord_far (hd : 257 ≤ d) :
    tokenWide (seqRecord lits d n).tok = true ∧ (seqRecord lits d n).ofs = asmOfs16 d :=
  ⟨tokenWide_seqRecord.trans (decide_eq_true hd), if_neg (by omega)⟩

/-- The offset of `seq` is of the space the token's `O` names, and gives the distance. -/
theorem seqRecord_ofs (h1 : 1 ≤ d) (hd : d ≤ 65536) :
    (seqRecord lits d n).ofs.space = .ofs (tokenWide (seqRecord lits d n).tok) ∧
      ofsDist (seqRecord lits d n).ofs = some d := by
  rcases Nat.lt_or_ge 256 d with h | h
  · obtain ⟨hw, ho⟩ := seqRecord_far (lits := lits) (n := n) h
    rw [hw, ho]; exact ⟨rfl, ofsDist_asmOfs16 h1 hd⟩
  · obtain ⟨hw, ho⟩ := seqRecord_near (lits := lits) (n := n) h
    rw [hw, ho]; exact ⟨rfl, ofsDist_asmOfs8 h1 h⟩

theorem ending_eodRecord : (eodRecord lits).ending = some .eod := by
  rw [Record.ending, tokenMatch_eodRecord]; rfl

theorem seqRecord_wf (hk : lits.length ≤ 65535) (hd1 : 1 ≤ d) (hd : d ≤ 65536) (hn1 : 1 ≤ n) (hn : n ≤ 65535) :
    (seqRecord lits d n).wf = true := by
  obtain ⟨hl, hx⟩ := seqRecord_canonicalLits (lits := lits) (d := d) (n := n).llen hk
  obtain ⟨he, hm⟩ := seqRecord_canonicalMatch (lits := lits) (d := d).ending hn1 hn
  exact Record.wf_iff.2 ⟨(tokenInstr_space _ _ _).1, tokenInstr_wf _ _ _, hx, hl,
    (seqRecord_ofs hd1 hd).1, hm, by rw [he]; rfl⟩

theorem eodRecord_wf (hk : lits.length ≤ 65535) : (eodRecord lits).wf = true := by
  obtain ⟨hl, hx⟩ := eodRecord_canonicalLits (lits := lits).llen hk
  refine Record.wf_iff.2 ⟨?_, ?_, hx, hl, ?_, rfl, by rw [ending_eodRecord]; rfl⟩
  · rw [eodRecord_tok]; exact (tokenInstr_space _ _ _).1
  · rw [eodRecord_tok]; exact tokenInstr_wf _ _ _
  · rw [tokenWide_eodRecord]; rfl

end Sys2Proof.Machine

open Sys2Proof Sys2Proof.Machine

/-- Settles O33: the canonical literals, match and offset of the records, form by form. -/
theorem canonicalRecordsAreWellFormed : Obligations.CanonicalRecordsAreWellFormed := by
  unfold Obligations.CanonicalRecordsAreWellFormed
  refine ⟨fun lits d n hk hd1 hd hn1 hn => ?_, fun lits hk => ?_, fun r lits hr hk => ?_⟩
  · have hm : (seqRecord lits d n).CanonicalMatch n := seqRecord_canonicalMatch
    exact ⟨⟨seqRecord_wf hk hd1 hd hn1 hn, (seqRecord_canonicalLits.llen hk).1, (seqRecord_ofs hd1 hd).2,
        (hm.ending hn1 hn).1⟩,
      hm.inline, fun h1 h2 => hm.extended (canonMatch_short h1 h2), fun h1 h2 => hm.extended (canonMatch_byte h1 h2),
      fun h => hm.extended (canonMatch_word h), seqRecord_near, fun h => asmOfs16_eq d ▸ seqRecord_far h⟩
  · exact ⟨eodRecord_wf hk, (eodRecord_canonicalLits.llen hk).1, by rw [Record.isEod, ending_eodRecord]; rfl,
      tokenWide_eodRecord, tokenMatch_eodRecord, rfl, rfl⟩
  · obtain ⟨hc, rfl⟩ : r.CanonicalLits ∧ r.lits = lits := by
      obtain rfl | ⟨d, n, rfl⟩ := hr
      · exact ⟨eodRecord_canonicalLits, rfl⟩
      · exact ⟨seqRecord_canonicalLits, rfl⟩
    exact ⟨rfl, hc.inline, fun h1 h2 => hc.extended (canonLits_short h1 h2),
      fun h1 h2 => hc.extended (canonLits_byte h1 h2), fun h => hc.extended (canonLits_word h)⟩
end

section
/-! PROOF. Runs measured by what they read and write: what no run changes, and the progress of a run, a sequence of
micro-steps with the bytes of the block it reads and the bytes of OUT it writes. -/

namespace Sys2Proof.Machine

open Sys2Proof

variable {s t u : State} {k k' r r' w w' : Nat} {out out' bs : List Byte}

/-! ### What no run changes -/

/-- A run's first micro-step commits, and the run goes on from there. -/
theorem run_succ_eq_next (h : run (k + 1) s = .next t) : ∃ u, step s = .next u ∧ run k u = .next t := by
  cases hs : step s with
  | next u => exact ⟨u, rfl, (run_succ_of_next hs).symm.trans h⟩
  | fault f => rw [run_succ_of_fault hs] at h; cases h
  | refused q =>
    have hs' : Sys2Proof.core.step s = .refused q := hs
    simp only [run, Host.Core.run, hs', reduceCtorEq] at h

/-- What no micro-step changes, of a whole run: the configuration, IN, and the model's own fields. -/
structure RunFrame (s t : State) : Prop where
  chk : t.chk = s.chk
  ie : t.ie = s.ie
  inEnd : t.inEnd = s.inEnd
  org : t.org = s.org
  outEnd : t.outEnd = s.outEnd
  rst : t.rst = s.rst
  rp0 : t.rp0 = s.rp0
  inMem : t.inMem = s.inMem
  stale : t.stale = s.stale
  hostReads : t.hostReads = s.hostReads

theorem RunFrame.refl (s : State) : RunFrame s s := ⟨rfl, rfl, rfl, rfl, rfl, rfl, rfl, rfl, rfl, rfl⟩

theorem RunFrame.trans (h : RunFrame s t) (h' : RunFrame t u) : RunFrame s u where
  chk := h'.chk.trans h.chk
  ie := h'.ie.trans h.ie
  inEnd := h'.inEnd.trans h.inEnd
  org := h'.org.trans h.org
  outEnd := h'.outEnd.trans h.outEnd
  rst := h'.rst.trans h.rst
  rp0 := h'.rp0.trans h.rp0
  inMem := h'.inMem.trans h.inMem
  stale := h'.stale.trans h.stale
  hostReads := h'.hostReads.trans h.hostReads

theorem StepFrame.runFrame (h : StepFrame s t) : RunFrame s t :=
  ⟨h.chk, h.ie, h.inEnd, h.org, h.outEnd, h.rst, h.rp0, h.inMem, h.stale, h.hostReads⟩

theorem run_frame (h : run k s = .next t) : RunFrame s t := by
  induction k generalizing s with
  | zero => cases h; exact .refl _
  | succ k ih =>
    obtain ⟨u, hs, hu⟩ := run_succ_eq_next h
    exact (step_frame hs).runFrame.trans (ih hu)

/-! ### The output of a run -/

theorem length_produced (s : State) : s.produced.length = s.wp.toNat - s.org.toNat := by simp [State.produced]

theorem produced_congr (ho : t.org = s.org) (hw : t.wp = s.wp) (hm : t.outMem = s.outMem) :
    t.produced = s.produced := by
  simp only [State.produced, ho, hw, State.readOut_congr hm]

/-- The output is read from the origin on (44_control.md R231). -/
theorem produced_getD (h : k < s.wp.toNat - s.org.toNat) : s.produced.getD k 0 = s.readOut (s.org.toNat + k) := by
  simp [State.produced, List.getD_eq_getElem?_getD, h]

/-- A byte written at the write cursor is appended to the output. -/
theorem produced_append {v : Byte} (horg : s.org.toNat ≤ s.wp.toNat) (hlt : s.wp.toNat < Config.outSize)
    (ho : t.org = s.org) (hw : t.wp.toNat = s.wp.toNat + 1) (hm : t.outMem = s.outMem.writeOut s.wp.toNat v) :
    t.produced = s.produced ++ [v] := by
  have hread : ∀ a, t.readOut a = (s.writeOut s.wp.toNat v).readOut a := State.readOut_congr hm
  have hlen : s.wp.toNat + 1 - s.org.toNat = s.wp.toNat - s.org.toNat + 1 := by omega
  simp only [State.produced, ho, hw, hlen, List.range_succ, List.map_append, List.map_cons, List.map_nil]
  congr 1
  · refine List.map_congr_left fun i hi => ?_
    have hi := List.mem_range.1 hi
    exact (hread _).trans (s.readOut_writeOut_other v (by omega))
  · rw [Nat.add_sub_cancel' horg, hread, s.readOut_writeOut_same v hlt]

/-! ### Bytes ahead of the read cursor, room after the write cursor -/

/-- The bytes of a list stand at the read cursor, inside the block. -/
def State.ahead (s : State) (bs : List Byte) : Prop :=
  s.holds s.rp.toNat bs ∧ s.rp.toNat + bs.length ≤ s.inEnd.toNat

/-- The write cursor is not before the origin, and `n` bytes fit after it, in the output range and in OUT. -/
def State.room (s : State) (n : Nat) : Prop :=
  s.org.toNat ≤ s.wp.toNat ∧ s.wp.toNat + n ≤ s.outEnd.toNat ∧ s.wp.toNat + n ≤ Config.outSize

theorem State.ahead.left {as : List Byte} (h : s.ahead (as ++ bs)) : s.ahead as := by
  obtain ⟨hb, hle⟩ := h
  rw [List.length_append] at hle
  refine ⟨fun i hi => ?_, by omega⟩
  rw [hb i (by rw [List.length_append]; omega), List.getElem_append_left hi]

/-- The byte at the read cursor may be read, and is the first of those ahead. -/
theorem State.ahead.head {b : Byte} (h : s.ahead (b :: bs)) : s.rp < s.inEnd ∧ s.readIn s.rp.toNat = b := by
  obtain ⟨hb, hle⟩ := h
  rw [List.length_cons] at hle
  exact ⟨by bv_omega, hb 0 (Nat.zero_lt_succ _)⟩

theorem State.room.wp_lt (h : s.room (w + 1)) : s.wp < s.outEnd ∧ s.wp.toNat < Config.outSize := by
  obtain ⟨-, he, hs⟩ := h
  exact ⟨by bv_omega, by omega⟩

/-! ### The progress of a run -/

/-- In `k` micro-steps the engine goes from `s` to `t`, reading the next `r` bytes of the block and writing the next
`w` bytes of OUT, and no others; what it has produced is then `out`. -/
structure Progress (k r w : Nat) (s t : State) (out : List Byte) : Prop where
  run : run k s = .next t
  rp : t.rp.toNat = s.rp.toNat + r
  wp : t.wp.toNat = s.wp.toNat + w
  produced : t.produced = out
  kept : ∀ a, a < s.wp.toNat ∨ t.wp.toNat ≤ a → t.readOut a = s.readOut a

theorem Progress.refl (s : State) : Progress 0 0 0 s s s.produced := ⟨rfl, rfl, rfl, rfl, fun _ _ => rfl⟩

theorem Progress.trans (h : Progress k r w s t out) (h' : Progress k' r' w' t u out') :
    Progress (k + k') (r + r') (w + w') s u out' where
  run := (run_add_of_next h.run).trans h'.run
  rp := by rw [h'.rp, h.rp, Nat.add_assoc]
  wp := by rw [h'.wp, h.wp, Nat.add_assoc]
  produced := h'.produced
  kept a ha := by
    have hw := h.wp
    have hw' := h'.wp
    exact (h'.kept a (by omega)).trans (h.kept a (by omega))

theorem Progress.rst (h : Progress k r w s t out) (hr : s.rst = false) : t.rst = false :=
  (run_frame h.run).rst.trans hr

/-- After a progress the bytes ahead are those it has not read. -/
theorem Progress.ahead (h : Progress k r w s t out) {cs : List Byte} (hlen : bs.length = r)
    (hb : s.ahead (bs ++ cs)) : t.ahead cs := by
  subst hlen
  obtain ⟨hb, hle⟩ := hb
  have hf := run_frame h.run
  rw [List.length_append] at hle
  refine ⟨fun i hi => ?_, by rw [hf.inEnd, h.rp]; omega⟩
  have hi' : bs.length + i < (bs ++ cs).length := by rw [List.length_append]; omega
  rw [State.readIn_congr hf.inMem, h.rp, Nat.add_assoc, hb _ hi',
    List.getElem_append_right (Nat.le_add_right _ _)]
  simp only [Nat.add_sub_cancel_left]

/-- After a progress there is room for what was not written yet. -/
theorem Progress.room (h : Progress k r w s t out) {n : Nat} (hroom : s.room n) (hle : w + w' ≤ n) : t.room w' := by
  obtain ⟨ho, he, hs⟩ := hroom
  have hf := run_frame h.run
  rw [State.room, hf.org, hf.outEnd, h.wp]
  omega

/-- A micro-step that reads a byte and writes none. -/
theorem Progress.of_read (hs : step s = .next t) (hlt : s.rp < s.inEnd)
    (hrp : t.rp = s.rp + 1) (hw : t.wp = s.wp) (hm : t.outMem = s.outMem) : Progress 1 1 0 s t s.produced where
  run := run_one hs
  rp := hrp ▸ advance_toNat hlt
  wp := congrArg _ hw
  produced := produced_congr (step_frame hs).org hw hm
  kept a _ := State.readOut_congr hm a

/-- A micro-step that writes the byte `v` at the write cursor. -/
theorem Progress.of_write {v : Byte} (hs : step s = .next t) (hroom : s.room (w + 1))
    (hrp : t.rp.toNat = s.rp.toNat + r) (hw : t.wp = s.wp + 1) (hm : t.outMem = s.outMem.writeOut s.wp.toNat v) :
    Progress 1 r 1 s t (s.produced ++ [v]) := by
  obtain ⟨hlt, hsize⟩ := hroom.wp_lt
  have hw' : t.wp.toNat = s.wp.toNat + 1 := hw ▸ advance_toNat hlt
  refine ⟨run_one hs, hrp, hw', produced_append hroom.1 hsize (step_frame hs).org hw' hm, fun a ha => ?_⟩
  exact (State.readOut_congr hm a).trans (s.readOut_writeOut_other v (by omega))

end Sys2Proof.Machine
end

section
/-! PROOF. A record's run (40_dispatch.md R126, 44_control.md R229), field by field: the token, the literal extension,
the literals, the offset, the match extension and the match, each from the state the field before it left. -/

namespace Sys2Proof.Machine

open Sys2Proof

variable {s t u : State} {n d : Nat} {b lo hi : Byte} {bs : List Byte} {x : Instr} {r : Record} {e : MatchEnd}

/-! ### Reading a field -/

/-- In `k` micro-steps the engine reads the next `k` bytes of the block and writes nothing. -/
abbrev Reads (k : Nat) (s t : State) : Prop := Progress k k 0 s t s.produced

theorem Reads.trans {k k' : Nat} (h : Reads k s t) (h' : Reads k' t u) : Reads (k + k') s u := by
  have hu := Progress.trans h h'
  rwa [h.produced] at hu

/-- A micro-step that reads a byte, with one ahead, where the registers it updates are no cursors. -/
theorem Reads.of_readStep {f : Fsm} {g : State → State} (hs : step s = readStep s f g) (h : s.ahead (b :: bs))
    (hrp : (g s.advanceIn).rp = s.rp + 1) (hw : (g s.advanceIn).wp = s.wp)
    (hm : (g s.advanceIn).outMem = s.outMem) : Reads 1 s (g s.advanceIn) ∧ (g s.advanceIn).ahead bs := by
  obtain ⟨hlt, -⟩ := h.head
  have hread : Reads 1 s (g s.advanceIn) := .of_read (hs.trans (readStep_next hlt f g)) hlt hrp hw hm
  exact ⟨hread, Progress.ahead (bs := [b]) hread rfl h⟩

/-! ### The literal length -/

/-- `n` literal bytes are still to copy, in LCOPY unless there are none (41_literal.md R167). -/
def State.literalsLeft (s : State) (n : Nat) : Prop := s.llen.toNat = n ∧ s.st = if n = 0 then .ofsLo else .lcopy

theorem literalLength_literalsLeft (n : Half) (s : State) : (literalLength n s).literalsLeft n.toNat := by
  by_cases hn : n = 0
  · rw [hn]; exact ⟨rfl, rfl⟩
  · rw [literalLength_pos hn]; exact ⟨rfl, (if_neg (by bv_omega)).symm⟩

/-- A token read in TOKEN is kept, and its literal field routes (40_dispatch.md R120). -/
theorem reads_token (hr : s.rst = false) (hs : s.st = .token) (h : s.ahead (b :: bs)) :
    ∃ t, Reads 1 s t ∧ t.ahead bs ∧ t.tok = b ∧
      (if tokL b = 7 then t.st = .lext else t.literalsLeft (tokL b).toNat) := by
  have hstep := step_token (active_of_st hr hs)
  rw [h.head.2] at hstep
  by_cases h7 : tokL b = 7
  · simp only [h7, if_true] at hstep ⊢
    obtain ⟨hread, hahead⟩ := Reads.of_readStep hstep h rfl rfl rfl
    exact ⟨_, hread, hahead, rfl, rfl⟩
  · simp only [h7, if_false] at hstep ⊢
    obtain ⟨hread, hahead⟩ := Reads.of_readStep hstep h rfl rfl rfl
    refine ⟨_, hread, hahead, rfl, ?_⟩
    have hn : ((tokL b).setWidth 16).toNat = (tokL b).toNat := BitVec.toNat_setWidth_of_le (by decide)
    exact hn ▸ literalLength_literalsLeft _ _

/-- A literal extension read in LEXT gives the literal length (41_literal.md R161 to R165). -/
theorem reads_lext (hr : s.rst = false) (hs : s.st = .lext) (hn : lextLits x = some n) (hw : x.wf = true)
    (h : s.ahead (encode x)) : ∃ t, Reads x.size s t ∧ t.tok = s.tok ∧ t.literalsLeft n := by
  have hact := active_of_st hr hs
  cases x with
  | lextShort e =>
    cases hn
    have he : e.toNat ≤ 248 := of_decide_eq_true hw
    have hb := h.head.2
    have hstep := step_lext_short hact (by rwa [hb])
    rw [hb] at hstep
    obtain ⟨hread, -⟩ := Reads.of_readStep hstep h rfl rfl rfl
    exact ⟨_, hread, rfl, litShort_toNat e ▸ literalLength_literalsLeft _ _⟩
  | lextByte f =>
    cases hn
    obtain ⟨hread, h1⟩ := Reads.of_readStep (step_lext_byte hact (by rw [h.head.2]; rfl)) h rfl rfl rfl
    have hstep := step_lextB (active_of_st (hread.rst hr) rfl)
    rw [h1.head.2] at hstep
    obtain ⟨hread1, -⟩ := Reads.of_readStep hstep h1 rfl rfl rfl
    exact ⟨_, hread.trans hread1, rfl, litByte_toNat f ▸ literalLength_literalsLeft _ _⟩
  | lextWord lo hi =>
    cases hn
    obtain ⟨hread, h1⟩ := Reads.of_readStep (step_lext_word hact (by rw [h.head.2]; rfl)) h rfl rfl rfl
    have hstep := step_lextWL (active_of_st (hread.rst hr) rfl)
    rw [h1.head.2] at hstep
    obtain ⟨hread1, h2⟩ := Reads.of_readStep hstep h1 rfl rfl rfl
    have hstep := step_lextWH (active_of_st (hread1.rst (hread.rst hr)) rfl)
    rw [h2.head.2] at hstep
    obtain ⟨hread2, -⟩ := Reads.of_readStep hstep h2 rfl rfl rfl
    exact ⟨_, (hread.trans hread1).trans hread2, rfl, le16_toNat lo hi ▸ literalLength_literalsLeft _ _⟩
  | _ => cases hn

/-- All the literals are copied, forward (41_literal.md R168, R169). -/
theorem progress_literals (hr : s.rst = false) (hl : s.literalsLeft bs.length) (h : s.ahead bs)
    (hroom : s.room bs.length) :
    ∃ t, Progress bs.length bs.length bs.length s t (s.produced ++ bs) ∧ t.tok = s.tok ∧ t.st = .ofsLo := by
  induction bs generalizing s with
  | nil => exact ⟨s, by rw [List.append_nil]; exact .refl s, rfl, hl.2⟩
  | cons b bs ih =>
    obtain ⟨hlen, hst⟩ := hl
    obtain ⟨hlt, hb⟩ := h.head
    obtain ⟨hwlt, -⟩ := hroom.wp_lt
    have hstep := step_lcopy (active_of_st hr hst)
    rw [literalCopy_next hlt hwlt, hb] at hstep
    have hcopy := Progress.of_write (r := 1) hstep hroom (advance_toNat hlt) rfl rfl
    have hleft := literalLength_literalsLeft (s.llen - 1) (s.advanceIn.writeOut s.wp.toNat b).advanceOut
    have hcount : (s.llen - 1).toNat = bs.length := by rw [List.length_cons] at hlen; bv_omega
    rw [List.length_cons, Nat.add_comm] at hroom ⊢
    obtain ⟨t, hrun, htok, ht⟩ := ih (hcopy.rst hr) (hcount ▸ hleft) (Progress.ahead (bs := [b]) hcopy rfl h)
      (hcopy.room hroom (Nat.le_refl _))
    have hall := hcopy.trans hrun
    rw [hcopy.produced, List.append_assoc] at hall
    exact ⟨t, hall, htok, ht⟩

/-! ### The offset and the match length -/

/-- `n` match bytes are still to copy, in MCOPY unless there are none (43_match.md R200, R206). -/
def State.matchLeft (s : State) (n : Nat) : Prop := s.mlen.toNat = n ∧ s.st = if n = 0 then .token else .mcopy

/-- The record's end is known: a match to copy, or the end of the run (43_match.md R194, R197). -/
def State.atEnd (s : State) : MatchEnd → Prop
  | .copy n => s.matchLeft n
  | .eod => s.st = .done

theorem matchLength_matchLeft {n : Half} (hn : n ≠ 0) (s : State) : (matchLength n s).matchLeft n.toNat :=
  ⟨rfl, (if_neg (by bv_omega)).symm⟩

theorem countMatchByte_matchLeft (s : State) : (countMatchByte s).matchLeft (s.mlen - 1).toNat := by
  refine ⟨rfl, ?_⟩
  by_cases hn : s.mlen - 1 = 0
  · simp only [countMatchByte, hn]; rfl
  · rw [if_neg (by bv_omega)]; exact if_neg hn

@[simp] theorem afterOffset_rp (s : State) : (afterOffset s).rp = s.rp := by
  unfold afterOffset; split_ifs <;> rfl

@[simp] theorem afterOffset_wp (s : State) : (afterOffset s).wp = s.wp := by
  unfold afterOffset; split_ifs <;> rfl

@[simp] theorem afterOffset_outMem (s : State) : (afterOffset s).outMem = s.outMem := by
  unfold afterOffset; split_ifs <;> rfl

@[simp] theorem matchWord_rp (w : Half) (s : State) : (matchWord w s).rp = s.rp := by
  unfold matchWord; split_ifs <;> rfl

@[simp] theorem matchWord_wp (w : Half) (s : State) : (matchWord w s).wp = s.wp := by
  unfold matchWord; split_ifs <;> rfl

@[simp] theorem matchWord_outMem (w : Half) (s : State) : (matchWord w s).outMem = s.outMem := by
  unfold matchWord; split_ifs <;> rfl

theorem ofsDist_pos (h : ofsDist x = some d) : 1 ≤ d := by
  cases x with
  | ofs8 lo => cases h; have := lo.isLt; omega
  | ofs16 lo hi => cases h; have := lo.isLt; have := hi.isLt; omega
  | _ => cases h

/-- An offset read in OFS_LO gives the distance, and the match field routes (42_offset.md R180 to R185). -/
theorem reads_offset (hr : s.rst = false) (hs : s.st = .ofsLo) (hx : x.space = .ofs (tokO s.tok))
    (hd : ofsDist x = some d) (h : s.ahead (encode x)) :
    ∃ u, Reads x.size s (afterOffset u) ∧ u.tok = s.tok ∧ u.dist.toNat = d := by
  have hact := active_of_st hr hs
  cases x with
  | ofs8 lo =>
    cases hd
    have ho : tokO s.tok = false := by cases ho : tokO s.tok <;> simp [ho, Instr.space] at hx ⊢
    have hstep := step_ofsLo_narrow hact ho
    rw [h.head.2] at hstep
    obtain ⟨hread, -⟩ := Reads.of_readStep hstep h (afterOffset_rp _) (afterOffset_wp _) (afterOffset_outMem _)
    exact ⟨_, hread, rfl, dist8_toNat lo⟩
  | ofs16 lo hi =>
    cases hd
    have ho : tokO s.tok = true := by cases ho : tokO s.tok <;> simp [ho, Instr.space] at hx ⊢
    have hstep := step_ofsLo_wide hact ho
    rw [h.head.2] at hstep
    obtain ⟨hread, h1⟩ := Reads.of_readStep hstep h rfl rfl rfl
    have hstep := step_ofsHi (active_of_st (hread.rst hr) rfl)
    rw [h1.head.2] at hstep
    obtain ⟨hread1, -⟩ := Reads.of_readStep hstep h1 (afterOffset_rp _) (afterOffset_wp _) (afterOffset_outMem _)
    exact ⟨_, hread.trans hread1, rfl, dist16_toNat lo hi⟩
  | _ => cases hd

/-- The word form of a match extension, the sentinel's included (43_match.md R194). -/
theorem reads_matchWord (hr : s.rst = false) (hs : s.st = .mext) (h : s.ahead [0xEE, lo, hi]) :
    ∃ u, Reads 3 s (matchWord (le16 lo hi) u) ∧ u.dist = s.dist := by
  have hstep := step_mext_word (active_of_st hr hs) (by rw [h.head.2]; rfl)
  obtain ⟨hread, h1⟩ := Reads.of_readStep hstep h rfl rfl rfl
  have hstep := step_mextWL (active_of_st (hread.rst hr) rfl)
  rw [h1.head.2] at hstep
  obtain ⟨hread1, h2⟩ := Reads.of_readStep hstep h1 rfl rfl rfl
  have hstep := step_mextWH (active_of_st (hread1.rst (hread.rst hr)) rfl)
  rw [h2.head.2] at hstep
  obtain ⟨hread2, -⟩ := Reads.of_readStep hstep h2 (matchWord_rp _ _) (matchWord_wp _ _) (matchWord_outMem _ _)
  exact ⟨_, (hread.trans hread1).trans hread2, rfl⟩

/-- A match extension read in MEXT says how the record ends (43_match.md R191 to R194, R197). -/
theorem reads_mext (hr : s.rst = false) (hs : s.st = .mext) (he : mextMatch x = some e) (hw : x.wf = true)
    (h : s.ahead (encode x)) : ∃ t, Reads x.size s t ∧ t.dist = s.dist ∧ t.atEnd e := by
  have hact := active_of_st hr hs
  cases x with
  | mextShort b =>
    cases he
    have hle : b.toNat ≤ 237 := of_decide_eq_true hw
    have hb := h.head.2
    have hstep := step_mext_short hact (by rwa [hb])
    rw [hb] at hstep
    exact ⟨_, (Reads.of_readStep hstep h rfl rfl rfl).1, rfl,
      matchShort_toNat b ▸ matchLength_matchLeft (matchShort_ne_zero b) _⟩
  | mextByte f =>
    cases he
    obtain ⟨hread, h1⟩ := Reads.of_readStep (step_mext_byte hact (by rw [h.head.2]; rfl)) h rfl rfl rfl
    have hstep := step_mextB (active_of_st (hread.rst hr) rfl)
    rw [h1.head.2] at hstep
    exact ⟨_, hread.trans (Reads.of_readStep hstep h1 rfl rfl rfl).1, rfl,
      matchByte_toNat f ▸ matchLength_matchLeft (matchByte_ne_zero f) _⟩
  | mextWord lo hi =>
    cases he
    obtain ⟨u, hread, hdist⟩ := reads_matchWord hr hs h
    have hne : le16 lo hi ≠ 0 := fun h0 => mextWord_wf_iff.1 hw ((le16_eq_zero lo hi).1 h0)
    rw [matchWord, if_neg hne] at hread
    exact ⟨_, hread, hdist, le16_toNat lo hi ▸ matchLength_matchLeft hne u⟩
  | mextEod =>
    cases he
    obtain ⟨u, hread, hdist⟩ := reads_matchWord hr hs h
    exact ⟨_, hread, hdist, rfl⟩
  | _ => cases he

/-- All the match bytes are copied, forward and one at a time, each from the output as it then stands (R200, R202). -/
theorem progress_match (hr : s.rst = false) (hl : s.matchLeft n) (hpos : 1 ≤ s.dist.toNat)
    (hd : s.dist.toNat ≤ s.produced.length) (hroom : s.room n) :
    ∃ t, Progress n 0 n s t (copyMatch s.dist.toNat n s.produced) ∧ t.st = .token := by
  induction n generalizing s with
  | zero => exact ⟨s, .refl s, hl.2⟩
  | succ n ih =>
    obtain ⟨hlen, hst⟩ := hl
    obtain ⟨hwlt, -⟩ := hroom.wp_lt
    have hlength := length_produced s
    have hsource : s.readOut (matchSource s) = s.produced.getD (s.produced.length - s.dist.toNat) 0 := by
      rw [produced_getD (by omega), matchSource]
      congr 1; omega
    have hstep := step_mcopy (active_of_st hr hst)
    rw [matchCopy_next (beforeOrigin_eq_false.2 (by omega)) hwlt, hsource] at hstep
    have hcopy := Progress.of_write (r := 0) hstep hroom rfl rfl rfl
    have hleft := countMatchByte_matchLeft
      (s.writeOut s.wp.toNat (s.produced.getD (s.produced.length - s.dist.toNat) 0)).advanceOut
    have hcount : (s.mlen - 1).toNat = n := by bv_omega
    rw [Nat.add_comm] at hroom
    obtain ⟨t, hrun, ht⟩ := ih (hcopy.rst hr) (hcount ▸ hleft) hpos
      (by rw [hcopy.produced, List.length_append]; exact Nat.le_add_right_of_le hd) (hcopy.room hroom (Nat.le_refl _))
    have hall := hcopy.trans hrun
    rw [hcopy.produced, Nat.add_comm] at hall
    exact ⟨t, hall, ht⟩

/-! ### The fields of a well-formed record -/

/-- A token instruction is one byte, whose fields are what the record asks of it (30_encoding.md R91). -/
theorem token_encode (hs : x.space = .token) (hw : x.wf = true) : ∃ b, encode x = [b] ∧ tokenWide x = tokO b ∧
    tokenLits x = (if tokL b = 7 then none else some (tokL b).toNat) ∧
    tokenMatch x = if tokM b = 15 then none else some ((tokM b).toNat + 3) := by
  obtain ⟨o, l, m, rfl⟩ := exists_eq_tokenInstr hs hw
  exact ⟨tokByte o l m, encode_tokenInstr o l m, by simp, by rw [tokL_tokByte, tokenLits_tokenInstr],
    by rw [tokM_tokByte, tokenMatch_tokenInstr]⟩

/-- The literal length is the token's or the extension's. -/
theorem Record.llen_cases (h : r.llen = some n) : (tokenLits r.tok = some n ∧ r.lext = none) ∨
    (tokenLits r.tok = none ∧ ∃ x, r.lext = some x ∧ lextLits x = some n) := by
  unfold Record.llen at h
  split at h
  · exact .inl ⟨by rwa [‹tokenLits r.tok = _›], ‹_›⟩
  · exact .inr ⟨‹_›, _, ‹_›, h⟩
  · cases h

/-- How a record ends is said by the token or by the extension. -/
theorem Record.ending_cases (h : r.ending = some e) :
    (∃ n, tokenMatch r.tok = some n ∧ r.mext = none ∧ e = .copy n) ∨
    (tokenMatch r.tok = none ∧ ∃ x, r.mext = some x ∧ mextMatch x = some e) := by
  unfold Record.ending at h
  split at h
  · cases h; exact .inl ⟨_, ‹_›, ‹_›, rfl⟩
  · exact .inr ⟨‹_›, _, ‹_›, h⟩
  · cases h

/-- What a record stands for: the literals, and after them the match, within the output so far, or nothing (R201). -/
theorem Record.expand_eq_some {out out' : List Byte} (h : r.expand out = some out') : ∃ d, ofsDist r.ofs = some d ∧
    ((∃ n, r.ending = some (.copy n) ∧ d ≤ (out ++ r.lits).length ∧ out' = copyMatch d n (out ++ r.lits)) ∨
     (r.ending = some .eod ∧ out' = out ++ r.lits)) := by
  unfold Record.expand at h
  split at h
  · split_ifs at h with hd
    cases h; exact ⟨_, ‹_›, .inl ⟨_, ‹_›, hd, rfl⟩⟩
  · cases h; exact ⟨_, ‹_›, .inr ⟨‹_›, rfl⟩⟩
  · cases h

/-! ### The record -/

/-- The token and the literal extension, read from TOKEN. -/
theorem reads_literal_length (hr : s.rst = false) (hs : s.st = .token) (hw : r.wf = true)
    (h : s.ahead (encode r.tok ++ (r.lext.map encode).getD [])) :
    ∃ t, Reads (1 + extBytes r.lext) s t ∧ encode r.tok = [t.tok] ∧ t.literalsLeft r.lits.length := by
  obtain ⟨hts, htw, hlw, hn, -⟩ := Record.wf_iff.1 hw
  obtain ⟨b, hb, -, hlits, -⟩ := token_encode hts htw
  rw [hb] at h ⊢
  obtain ⟨t, hread, hahead, rfl, hroute⟩ := reads_token hr hs h
  rcases Record.llen_cases hn with ⟨ht, hx⟩ | ⟨ht, x, hx, hxn⟩
  · rw [hlits] at ht
    split_ifs at ht hroute with h7
    rw [hx, ← Option.some.inj ht]
    exact ⟨t, hread, rfl, hroute⟩
  · rw [hlits] at ht
    split_ifs at ht hroute with h7
    rw [hx] at hlw hahead ⊢
    simp only [Option.all_some, Bool.and_eq_true] at hlw
    obtain ⟨u, hread', htok, hu⟩ := reads_lext (hread.rst hr) hroute hxn hlw.2 hahead
    exact ⟨u, hread.trans hread', by rw [htok], hu⟩

/-- The match extension, if the token has one, read after the offset. -/
theorem reads_match_length (hr : (afterOffset u).rst = false) (hw : r.wf = true) (hb : encode r.tok = [u.tok])
    (he : r.ending = some e) (h : (afterOffset u).ahead ((r.mext.map encode).getD [])) :
    ∃ t, Reads (extBytes r.mext) (afterOffset u) t ∧ t.dist = u.dist ∧ t.atEnd e := by
  obtain ⟨hts, htw, -, -, -, hmw, -⟩ := Record.wf_iff.1 hw
  obtain ⟨b, hb', -, -, hmatch⟩ := token_encode hts htw
  obtain rfl : u.tok = b := by simpa [hb] using hb'
  rcases Record.ending_cases he with ⟨n, ht, hx, rfl⟩ | ⟨ht, x, hx, hxe⟩
  · rw [hmatch] at ht
    split_ifs at ht with h15
    cases ht
    have hleft := matchLength_matchLeft (matchInline_ne_zero (tokM u.tok)) u
    rw [matchInline_toNat] at hleft
    rw [hx, afterOffset, if_neg h15]
    exact ⟨_, .refl _, rfl, hleft⟩
  · rw [hmatch] at ht
    split_ifs at ht with h15
    rw [afterOffset_extended h15] at hr h ⊢
    rw [hx] at hmw h ⊢
    simp only [Option.all_some, Bool.and_eq_true] at hmw
    exact reads_mext hr rfl hxe hmw.2 h

/-- A record's end run out: the match copied, or nothing. -/
theorem progress_end {out out' : List Byte} (hr : s.rst = false) (hs : s.produced = out ++ r.lits)
    (hd : ofsDist r.ofs = some s.dist.toNat) (hend : r.ending = some e) (he : s.atEnd e) (hroom : s.room r.mlen)
    (hout : r.expand out = some out') :
    ∃ t, Progress r.mlen 0 r.mlen s t out' ∧ t.st = if r.isEod then .done else .token := by
  obtain ⟨d, hd', ⟨n, hn, hle, rfl⟩ | ⟨hn, rfl⟩⟩ := Record.expand_eq_some hout
  all_goals
    obtain rfl : d = s.dist.toNat := by simpa [hd] using hd'.symm
    obtain rfl : e = _ := by simpa [hend] using hn
    rw [← hs]
  · have hm : r.mlen = n := by rw [Record.mlen, hend]
    have heod : r.isEod = false := by simp [Record.isEod, hend]
    rw [hm] at hroom ⊢
    simp only [heod]
    exact progress_match hr he (ofsDist_pos hd) (hs ▸ hle) hroom
  · have hm : r.mlen = 0 := by rw [Record.mlen, hend]
    have heod : r.isEod = true := by simp [Record.isEod, hend]
    rw [hm]
    simp only [heod]
    exact ⟨s, .refl s, he⟩

/-- A well-formed record ahead of TOKEN runs in its step count to its expansion (44_control.md R229). -/
theorem progress_record {out : List Byte} (hr : s.rst = false) (hs : s.st = .token) (hw : r.wf = true)
    (h : s.ahead r.bytes) (hroom : s.room (r.lits.length + r.mlen)) (hout : r.expand s.produced = some out) :
    ∃ t, Progress r.steps r.length (r.lits.length + r.mlen) s t out ∧ t.st = if r.isEod then .done else .token := by
  obtain ⟨hts, htw, -, -, ho, -, he⟩ := Record.wf_iff.1 hw
  obtain ⟨e, he⟩ := Option.isSome_iff_exists.1 he
  obtain ⟨d, hd, -⟩ := Record.expand_eq_some hout
  obtain ⟨b, hb, hwide, -⟩ := token_encode hts htw
  have h0 : s.ahead ((encode r.tok ++ (r.lext.map encode).getD []) ++
      (r.lits ++ (encode r.ofs ++ (r.mext.map encode).getD []))) := by simpa [Record.bytes] using h
  obtain ⟨t1, p1, hb1, hleft⟩ := reads_literal_length hr hs hw h0.left
  obtain rfl : t1.tok = b := by simpa [hb1] using hb
  have hr1 := p1.rst hr
  have h1 := p1.ahead (by rw [List.length_append, length_getD_encode, encode_length, size_of_token hts htw]) h0
  obtain ⟨t2, p2, htok2, hs2⟩ := progress_literals hr1 hleft h1.left (p1.room hroom (by omega))
  have h2 := p2.ahead rfl h1
  obtain ⟨u, p3, htok3, hdist⟩ := reads_offset (p2.rst hr1) hs2 (by rw [ho, hwide, htok2]) hd h2.left
  have p13 := (Progress.trans p1 p2).trans p3
  rw [(wf_size_of_ofs ho).2] at p13
  have h3 := p3.ahead (encode_length _) h2
  obtain ⟨t4, p4, hdist4, hend⟩ := reads_match_length (p13.rst hr) hw (by rw [htok3, htok2, hb1]) he h3
  have p14 := p13.trans p4
  obtain ⟨t, p5, ht⟩ := progress_end (p14.rst hr) (by rw [p14.produced, p13.produced, p2.produced, p1.produced])
    (by rw [hdist4, hdist, hd]) he hend (p14.room hroom (by omega)) hout
  have hall := p14.trans p5
  simp only [Nat.zero_add, Nat.add_zero] at hall
  exact ⟨t, hall, ht⟩

end Sys2Proof.Machine

open Sys2Proof Sys2Proof.Machine

/-- Settles O29, by the progress of the record's run. -/
theorem recordRunsToItsExpansion : Obligations.RecordRunsToItsExpansion := by
  unfold Obligations.RecordRunsToItsExpansion
  intro s r out hr hs hw horg hbytes hin hout hsize hexp
  obtain ⟨t, hp, ht⟩ := progress_record hr hs hw ⟨hbytes, hin⟩ ⟨horg, by omega, by omega⟩ hexp
  have hf := run_frame hp.run
  exact ⟨t, hp.run, ht, Record.length_bytes hw ▸ hp.rp, Nat.add_assoc _ _ _ ▸ hp.wp, hf.org, hp.produced,
    hf.inMem, hp.kept⟩
end

section
/-! PROOF. The token state: which behaviour a byte selects (40_dispatch.md R123), what its read does and where it
leads (R120), and that a step enters TOKEN only with the last byte of a match. -/

namespace Sys2Proof.Machine

open Sys2Proof

variable {s : State} {n : Half} {m : BitVec 4}

/-! ### The behaviour number -/

/-- With an extended match the number is odd. -/
theorem bidOf_tokByte_extended (o : Bool) (l : BitVec 3) : bidOf (tokByte o l 15) = 2 * l.setWidth 4 + 1 := by
  rw [bidOf, tokL_tokByte, tokM_tokByte, if_pos rfl]

/-- With an inline match the number is even. -/
theorem bidOf_tokByte_inline (hm : m ≠ 15) (o : Bool) (l : BitVec 3) :
    bidOf (tokByte o l m) = 2 * l.setWidth 4 := by
  rw [bidOf, tokL_tokByte, tokM_tokByte, if_neg hm]
  exact BitVec.add_zero _

theorem bidOf_toNat (t : Byte) : (bidOf t).toNat = 2 * (tokL t).toNat + (if tokM t = 15 then 1 else 0) := by
  have := (tokL t).isLt
  rw [bidOf]
  split_ifs <;> simp [BitVec.toNat_add, BitVec.toNat_mul] <;> omega

/-- The bit `MMMM = 15` stands after the literal field. -/
theorem bidOf_eq_append (t : Byte) : bidOf t = tokL t ++ BitVec.ofBool (tokM t == 15) := by
  refine BitVec.eq_of_toNat_eq ?_
  rw [bidOf_toNat, append_toNat, BitVec.toNat_ofBool]
  by_cases hm : tokM t = 15
  · rw [if_pos hm, beq_iff_eq.2 hm, Bool.toNat_true]; omega
  · rw [if_neg hm, beq_eq_false_iff_ne.2 hm, Bool.toNat_false]; omega

/-! ### The token read -/

/-- In TOKEN a token with literals goes to LCOPY (R120). -/
theorem inlineToken_pos (hs : s.st = .token) (hlt : s.rp < s.inEnd) (hn : n ≠ 0) (t : Byte) (b : BitVec 4) :
    tokenMicro (inlineToken t b n) s = .next
      { s with rp := s.rp + 1, tok := t, bid := b, llen := n, st := .lcopy } := by
  rw [tokenMicro_read (by simp [hs]) (by simp [hs]), inlineToken, readStep_next hlt, literalLength_pos hn]; rfl

/-- In TOKEN a token without literals goes past them (R120). -/
theorem inlineToken_zero (hs : s.st = .token) (hlt : s.rp < s.inEnd) (t : Byte) (b : BitVec 4) :
    tokenMicro (inlineToken t b 0) s = .next
      { s with rp := s.rp + 1, tok := t, bid := b, llen := 0, st := .ofsLo } := by
  rw [tokenMicro_read (by simp [hs]) (by simp [hs]), inlineToken, readStep_next hlt, literalLength_zero]; rfl

/-- In TOKEN a token with a literal extension goes to LEXT (R120). -/
theorem extendedToken_next (hs : s.st = .token) (hlt : s.rp < s.inEnd) (t : Byte) (b : BitVec 4) :
    tokenMicro (extendedToken t b) s = .next
      { s with rp := s.rp + 1, tok := t, bid := b, st := .lext } := by
  rw [tokenMicro_read (by simp [hs]) (by simp [hs]), extendedToken, readStep_next hlt]; rfl

/-- The only row that leads to TOKEN is that of a match's last byte (43_match.md R206). -/
theorem commitRow_enters_token (hr : s.rst = false) (h : (commitRow s).st = .token) : s.st = .mcopy ∧ s.mlen = 1 := by
  have hst := active_of hr
  cases ha : s.active <;> rw [ha] at hst <;> simp only [commitRow, ha] at h
  case mcopy =>
    refine ⟨hst.symm, by_contra fun h1 => ?_⟩
    rw [if_neg h1, ← hst] at h
    cases h
  case idle | done | fault => rw [← hst] at h; cases h
  case lcopy =>
    split_ifs at h
    rw [← hst] at h; cases h
  case lextB | lextWL | mextB | mextWL => cases h
  all_goals split_ifs at h

end Sys2Proof.Machine

open Sys2Proof Sys2Proof.Machine

/-- Settles O8: the read by the token's row, the rest by the rows of the other states. -/
theorem tokenStateReadsAndRoutes : Obligations.TokenStateReadsAndRoutes := by
  unfold Obligations.TokenStateReadsAndRoutes
  refine ⟨fun s hr hs hlt => ?_, fun s hr hs hle => ?_, fun s t hstep hs => ?_, fun s v hr hb hv => ?_,
    fun s t hr hstep ht => ?_⟩
  · rw [step_token (active_of_st hr hs), readStep_next hlt]
    refine ⟨fun h7 => by rw [if_pos h7]; rfl, fun h7 => ?_⟩
    rw [if_neg h7, BitVec.ofNat_toNat]
    rcases Nat.eq_zero_or_pos (tokL (s.readIn s.rp.toNat)).toNat with h0 | h0
    · have hz : (tokL (s.readIn s.rp.toNat)).setWidth 16 = 0 := by bv_omega
      rw [hz, literalLength_zero, if_neg (by omega)]; rfl
    · rw [literalLength_pos (by bv_omega), if_pos h0]; rfl
  · rw [step_token (active_of_st hr hs), readStep_overrun hle]
  · rcases step_next_cases hstep with rfl | ⟨hr, -, ⟨-, rfl⟩ | ⟨-, e, -, rfl⟩⟩
    · exact ⟨rfl, rfl⟩
    · exact commitRow_token_fields (by rwa [active_of hr])
    · exact ⟨rfl, rfl⟩
  · rw [writeReg_ctrl hr, writeCtrl_start hb hv]; rfl
  · rw [step_eq_transition] at hstep
    cases hp : pendingEvent s with
    | none =>
      rw [transition_of_none hp] at hstep
      cases hstep
      exact commitRow_enters_token hr ht
    | some e =>
      rw [transition_of_some hp, raise] at hstep
      split_ifs at hstep
      cases hstep; cases ht

/-- Settles O4: each row's bytes are its instruction's encoding, its number follows from its two fields. -/
theorem tokenBytesSelectBehaviours : Obligations.TokenBytesSelectBehaviours := by
  unfold Obligations.TokenBytesSelectBehaviours
  refine ⟨bidOf_toNat, bidOf_eq_append, tokByte_fields, ?_⟩
  have inline {m : BitVec 4} (hm : m ≠ 15) : (m != 15) = true := bne_iff_ne.2 hm
  exact ⟨fun o m hm => ⟨decodeInvertsEncode (.tokL0M o m) (inline hm) [], bidOf_tokByte_inline hm o 0⟩,
    fun o => ⟨decodeInvertsEncode (.tokL0MX o) rfl [], bidOf_tokByte_extended o 0⟩,
    fun o m hm => ⟨decodeInvertsEncode (.tokL1M o m) (inline hm) [], bidOf_tokByte_inline hm o 1⟩,
    fun o => ⟨decodeInvertsEncode (.tokL1MX o) rfl [], bidOf_tokByte_extended o 1⟩,
    fun o m hm => ⟨decodeInvertsEncode (.tokL2M o m) (inline hm) [], bidOf_tokByte_inline hm o 2⟩,
    fun o => ⟨decodeInvertsEncode (.tokL2MX o) rfl [], bidOf_tokByte_extended o 2⟩,
    fun o m hm => ⟨decodeInvertsEncode (.tokL3M o m) (inline hm) [], bidOf_tokByte_inline hm o 3⟩,
    fun o => ⟨decodeInvertsEncode (.tokL3MX o) rfl [], bidOf_tokByte_extended o 3⟩,
    fun o m hm => ⟨decodeInvertsEncode (.tokL4M o m) (inline hm) [], bidOf_tokByte_inline hm o 4⟩,
    fun o => ⟨decodeInvertsEncode (.tokL4MX o) rfl [], bidOf_tokByte_extended o 4⟩,
    fun o m hm => ⟨decodeInvertsEncode (.tokL5M o m) (inline hm) [], bidOf_tokByte_inline hm o 5⟩,
    fun o => ⟨decodeInvertsEncode (.tokL5MX o) rfl [], bidOf_tokByte_extended o 5⟩,
    fun o m hm => ⟨decodeInvertsEncode (.tokL6M o m) (inline hm) [], bidOf_tokByte_inline hm o 6⟩,
    fun o => ⟨decodeInvertsEncode (.tokL6MX o) rfl [], bidOf_tokByte_extended o 6⟩,
    fun o m hm => ⟨decodeInvertsEncode (.tokLXM o m) (inline hm) [], bidOf_tokByte_inline hm o 7⟩,
    fun o => ⟨decodeInvertsEncode (.tokLXMX o) rfl [], bidOf_tokByte_extended o 7⟩⟩

/-- Settles O6: every inline token is the one read, with its number and its literal length. -/
theorem inlineTokensRead : Obligations.InlineTokensRead := by
  unfold Obligations.InlineTokensRead
  intro s hs hlt
  have pos {n : Half} (hn : n ≠ 0) := inlineToken_pos hs hlt hn
  exact ⟨fun _ _ => inlineToken_zero hs hlt _ _, fun _ => inlineToken_zero hs hlt _ _,
    fun _ _ => pos (by decide) _ _, fun _ => pos (by decide) _ _, fun _ _ => pos (by decide) _ _,
    fun _ => pos (by decide) _ _, fun _ _ => pos (by decide) _ _, fun _ => pos (by decide) _ _,
    fun _ _ => pos (by decide) _ _, fun _ => pos (by decide) _ _, fun _ _ => pos (by decide) _ _,
    fun _ => pos (by decide) _ _, fun _ _ => pos (by decide) _ _, fun _ => pos (by decide) _ _⟩

/-- Settles O7: both are the extended token read, with their numbers. -/
theorem extendedTokensRead : Obligations.ExtendedTokensRead := by
  unfold Obligations.ExtendedTokensRead
  intro s hs hlt
  exact ⟨fun _ _ => extendedToken_next hs hlt _ _, fun _ => extendedToken_next hs hlt _ _⟩
end

section
/-! PROOF. The literals: what each extension's micro-steps make of the literal length (41_literal.md R161 to R167), one
literal copied (R168), and the first `k` of a literal run (R169). -/

namespace Sys2Proof.Machine

open Sys2Proof

variable {s t : State} {i : Instr} {n : Half} {k : Nat}

/-! ### The literal length -/

/-- The length as a number, and the route it takes (R167). -/
theorem literalLength_eq (hn : n.toNat = k) (s : State) :
    literalLength n s = { s with llen := BitVec.ofNat 16 k, st := if 0 < k then .lcopy else .ofsLo } := by
  subst hn
  rw [BitVec.ofNat_toNat, BitVec.setWidth_eq]
  by_cases h0 : n = 0
  · rw [h0]; rfl
  · rw [literalLength_pos h0, if_pos (by bv_omega)]

/-- A length above 0 routes to LCOPY (R167). -/
theorem literalLength_eq_lcopy (hn : n.toNat = k) (hk : 0 < k) (s : State) :
    literalLength n s = { s with llen := BitVec.ofNat 16 k, st := .lcopy } := by
  rw [literalLength_eq hn, if_pos hk]

theorem exec_lextByte_first (hs : s.st = .lext) (f : Byte) :
    exec (.lextByte f) s = readStep s .lext fun t => t.goto .lextB := by
  simp only [exec, execLextByte, hs]

theorem exec_lextByte_length (hs : s.st = .lextB) (f : Byte) :
    exec (.lextByte f) s = readStep s .lextB (literalLength (litByte f)) := by
  simp only [exec, execLextByte, hs]

theorem exec_lextWord_first (hs : s.st = .lext) (lo hi : Byte) :
    exec (.lextWord lo hi) s = readStep s .lext fun t => t.goto .lextWL := by
  simp only [exec, execLextWord, hs]

theorem exec_lextWord_low (hs : s.st = .lextWL) (lo hi : Byte) :
    exec (.lextWord lo hi) s = readStep s .lextWL fun t => (t.setExt lo).goto .lextWH := by
  simp only [exec, execLextWord, hs]

theorem exec_lextWord_high (hs : s.st = .lextWH) (lo hi : Byte) :
    exec (.lextWord lo hi) s = readStep s .lextWH fun t => literalLength (le16 t.ext hi) t := by
  simp only [exec, execLextWord, hs]

/-! ### One literal -/

/-- Every token's meaning is a `tokenMicro`, whatever its own read does (40_dispatch.md R126). -/
theorem exec_token (hi : i.space = .token) : ∃ first, ∀ s, exec i s = tokenMicro first s := by
  cases i with
  | ofs8 | ofs16 | lextShort | lextWord | lextByte | lextRsvd | mextShort | mextWord | mextEod | mextByte
  | mextRsvd => cases hi
  | _ => exact ⟨_, fun _ => rfl⟩

/-- The literal copy in bounds as a whole state: the cursors, the count, the route, and the one OUT byte. -/
theorem literalCopy_effect (hlt : s.rp < s.inEnd) (hwlt : s.wp < s.outEnd) :
    ∃ t : State, literalCopy s = .next t ∧
      t = { s with
        rp := s.rp + 1
        wp := s.wp + 1
        llen := s.llen - 1
        st := if s.llen = 1 then .ofsLo else .lcopy
        outMem := t.outMem } ∧
      (s.wp.toNat < Config.outSize → t.readOut s.wp.toNat = s.readIn s.rp.toNat) ∧
      ∀ a : Nat, a ≠ s.wp.toNat → t.readOut a = s.readOut a := by
  refine ⟨_, literalCopy_next hlt hwlt, ?_, s.readOut_writeOut_same _, fun a => s.readOut_writeOut_other _⟩
  by_cases h1 : s.llen = 1
  · rw [if_pos h1, h1]; rfl
  · rw [if_neg h1, literalLength_pos (by bv_omega)]; rfl

/-! ### A literal run -/

/-- The first `k` micro-steps of a literal run lead from `s` to `t`: `k` bytes copied forward, and nothing else of OUT
and of the registers changed (R169). -/
structure LiteralsCopied (k : Nat) (s t : State) : Prop where
  run : run k s = .next t
  same : t = { s with rp := t.rp, wp := t.wp, llen := t.llen, st := t.st, outMem := t.outMem }
  rp : t.rp.toNat = s.rp.toNat + k
  wp : t.wp.toNat = s.wp.toNat + k
  llen : t.llen.toNat = s.llen.toNat - k
  st : t.st = if k = s.llen.toNat then .ofsLo else .lcopy
  bytes : ∀ i, i < k → s.wp.toNat + i < Config.outSize → t.readOut (s.wp.toNat + i) = s.readIn (s.rp.toNat + i)
  kept : ∀ a, a < s.wp.toNat ∨ s.wp.toNat + k ≤ a → t.readOut a = s.readOut a

theorem LiteralsCopied.zero (hs : s.st = .lcopy) (hn : s.llen ≠ 0) : LiteralsCopied 0 s s where
  run := rfl
  same := rfl
  rp := rfl
  wp := rfl
  llen := rfl
  st := by rw [hs, if_neg (by bv_omega)]
  bytes _ hi := absurd hi (Nat.not_lt_zero _)
  kept _ _ := rfl

/-- While literals are left, one more micro-step copies one more byte. -/
theorem LiteralsCopied.succ (h : LiteralsCopied k s t) (hr : s.rst = false) (hk : k < s.llen.toNat)
    (hin : s.rp.toNat + s.llen.toNat ≤ s.inEnd.toNat) (hout : s.wp.toNat + s.llen.toNat ≤ s.outEnd.toNat) :
    ∃ u, LiteralsCopied (k + 1) s u := by
  obtain ⟨hrun, hsame, hrp, hwp, hllen, hst, hbytes, hkept⟩ := h
  have hframe := run_frame hrun
  have hlt : t.rp < t.inEnd := by rw [hframe.inEnd]; bv_omega
  have hwlt : t.wp < t.outEnd := by rw [hframe.outEnd]; bv_omega
  rw [if_neg (by omega)] at hst
  obtain ⟨u, hu, husame, hbyte, hother⟩ := literalCopy_effect hlt hwlt
  rw [← step_lcopy (active_of_st (hframe.rst.trans hr) hst)] at hu
  have hlast : t.llen = 1 ↔ k + 1 = s.llen.toNat := by bv_omega
  have hurp : u.rp = t.rp + 1 := congrArg State.rp husame
  have huwp : u.wp = t.wp + 1 := congrArg State.wp husame
  have hullen : u.llen = t.llen - 1 := congrArg State.llen husame
  have hust : u.st = if t.llen = 1 then .ofsLo else .lcopy := congrArg State.st husame
  refine ⟨u, ⟨(run_add_of_next hrun).trans (run_one hu), ?_, ?_, ?_, ?_, ?_, fun i hi hsize => ?_, fun a ha => ?_⟩⟩
  · rw [hurp, huwp, hullen, hust, husame, hsame]
  · rw [hurp, advance_toNat hlt, hrp, Nat.add_assoc]
  · rw [huwp, advance_toNat hwlt, hwp, Nat.add_assoc]
  · rw [hullen]; bv_omega
  · simp only [hust, hlast]
  · rcases Nat.lt_succ_iff_lt_or_eq.1 hi with hik | rfl
    · rw [hother _ (by omega), hbytes i hik hsize]
    · rw [hwp] at hbyte
      rw [hbyte hsize, hrp, State.readIn_congr hframe.inMem]
  · rw [hother a (by omega), hkept a (by omega)]

/-- A literal run gets through each number of bytes up to its length (R169). -/
theorem exists_literalsCopied (hr : s.rst = false) (hs : s.st = .lcopy) (hn : s.llen ≠ 0) (hk : k ≤ s.llen.toNat)
    (hin : s.rp.toNat + s.llen.toNat ≤ s.inEnd.toNat) (hout : s.wp.toNat + s.llen.toNat ≤ s.outEnd.toNat) :
    ∃ t, LiteralsCopied k s t := by
  induction k with
  | zero => exact ⟨s, .zero hs hn⟩
  | succ k ih =>
    obtain ⟨t, ht⟩ := ih (by omega)
    exact ht.succ hr hk hin hout

end Sys2Proof.Machine

open Sys2Proof Sys2Proof.Machine

/-- Settles O11: in LCOPY every token's meaning is the literal copy. -/
theorem tokensCopyOneLiteral : Obligations.TokensCopyOneLiteral := by
  unfold Obligations.TokensCopyOneLiteral
  intro i s hi hs _ hlt hwlt
  obtain ⟨first, hfirst⟩ := exec_token hi
  rw [hfirst, tokenMicro_lcopy hs]
  exact literalCopy_effect hlt hwlt

/-- Settles O12, by induction on the number of bytes copied. -/
theorem literalRunCopiesForward : Obligations.LiteralRunCopiesForward := by
  unfold Obligations.LiteralRunCopiesForward
  intro s k hr hs hn hk hin hout
  obtain ⟨t, h⟩ := exists_literalsCopied hr hs hn hk hin hout
  exact ⟨t, h.run, h.same, h.rp, h.wp, h.llen, h.st, h.bytes, h.kept⟩

/-- Settles O9: each micro-step reads its byte, and the last one of each form resolves the length. -/
theorem literalExtensionsResolve : Obligations.LiteralExtensionsResolve := by
  unfold Obligations.LiteralExtensionsResolve
  intro s hlt
  refine ⟨fun e _ _ => ?_, fun f hs => ?_, fun f hs => ?_, fun lo hi hs => ?_, fun lo hi hs => ?_,
    fun lo hi hs => ?_⟩
  · refine (readStep_next hlt _ _).trans ?_
    rw [literalLength_eq_lcopy (litShort_toNat e) (by omega)]; rfl
  · rw [exec_lextByte_first hs, readStep_next hlt]; rfl
  · rw [exec_lextByte_length hs, readStep_next hlt, literalLength_eq_lcopy (litByte_toNat f) (by omega)]; rfl
  · rw [exec_lextWord_first hs, readStep_next hlt]; rfl
  · rw [exec_lextWord_low hs, readStep_next hlt]; rfl
  · rw [exec_lextWord_high hs, readStep_next hlt, literalLength_eq (le16_toNat _ hi)]; rfl

/-- Settles O10: past the bound test the reserved row raises, as its mode has it. -/
theorem reservedLiteralExtensionRaises : Obligations.ReservedLiteralExtensionRaises := by
  unfold Obligations.ReservedLiteralExtensionRaises
  intro s hs hlt
  have hraise (e : Byte) : exec (.lextRsvd e) s = raise s .lext .rsvdLext := reservedStep_raise hlt _ _
  refine ⟨fun e hc => ?_, fun e hc => ?_, fun hr hb => ?_⟩
  · rw [hraise, raise_checked hc]; rfl
  · rw [hraise, raise_unchecked hc]
  · exact step_lext_rsvd (active_of_st hr hs) hb

/-- Settles O13: in both forms the length that resolves is 0. -/
theorem zeroLiteralLengthCopiesNothing : Obligations.ZeroLiteralLengthCopiesNothing := by
  unfold Obligations.ZeroLiteralLengthCopiesNothing
  refine ⟨fun s hr hs hlt h0 => ?_, fun s hr hs hlt he hb => ?_⟩
  · refine ⟨_, (step_token (active_of_st hr hs)).trans (readStep_next hlt _ _), ?_⟩
    rw [h0]
    exact ⟨rfl, rfl, rfl, rfl, rfl⟩
  · refine ⟨_, (step_lextWH (active_of_st hr hs)).trans (readStep_next hlt _ _), ?_⟩
    rw [State.advanceIn_ext, he, hb]
    exact ⟨rfl, rfl, rfl, rfl, rfl⟩
end

section
/-! PROOF. The offsets: the distance each form writes and where the match field routes (42_offset.md R180 to R183, R185),
and that no step writes a distance out of range (R184). -/

namespace Sys2Proof.Machine

open Sys2Proof

variable {s t : State} {d : BitVec 17} {n : Nat}

/-! ### The distance written, and the route after it -/

/-- The distance as a number, before an extended match (R185). -/
theorem afterOffset_setDist_extended (hm : tokM s.tok = 15) (hd : d.toNat = n) :
    afterOffset (s.setDist d) = { s with dist := BitVec.ofNat 17 n, st := .mext } := by
  subst hd
  rw [afterOffset_extended (s := s.setDist d) hm, BitVec.ofNat_toNat, BitVec.setWidth_eq]; rfl

/-- The distance and the length as numbers, before an inline match (R185, 43_match.md R190). -/
theorem afterOffset_setDist_inline (hm : tokM s.tok ≠ 15) (hd : d.toNat = n) :
    afterOffset (s.setDist d) = { s with
      dist := BitVec.ofNat 17 n, mlen := BitVec.ofNat 16 ((tokM s.tok).toNat + 3), st := .mcopy } := by
  subst hd
  rw [afterOffset_inline (s := s.setDist d) hm, ← matchInline_toNat, BitVec.ofNat_toNat, BitVec.ofNat_toNat,
    BitVec.setWidth_eq, BitVec.setWidth_eq]; rfl

theorem exec_ofs16_low (hs : s.st = .ofsLo) (lo hi : Byte) :
    exec (.ofs16 lo hi) s = readStep s .ofsLo fun t => (t.setExt lo).goto .ofsHi := by
  simp only [exec, execOfs16, hs]

theorem exec_ofs16_high (hs : s.st = .ofsHi) (lo hi : Byte) :
    exec (.ofs16 lo hi) s = readStep s .ofsHi fun t => afterOffset (t.setDist (dist16 t.ext hi)) := by
  simp only [exec, execOfs16, hs]

/-- The one-byte offset is the negative number with the high byte 0xFF (R181). -/
theorem toInt_ff_append (lo : Byte) : (0xFF#8 ++ lo).toInt = -((256 - lo.toNat : Nat) : Int) := by
  have hlt := lo.isLt
  have hword : (0xFF#8 ++ lo).toNat = lo.toNat + 256 * 255 := le16_toNat lo 0xFF
  rw [BitVec.toInt_eq_toNat_cond, hword]
  omega

/-! ### The distance over a step -/

@[simp] theorem afterOffset_dist (s : State) : (afterOffset s).dist = s.dist := by
  unfold afterOffset; split_ifs <;> rfl

theorem afterOffset_distInRange (h : s.distInRange) : (afterOffset s).distInRange := by
  rwa [State.distInRange, afterOffset_dist]

/-- A row keeps the distance, or is an offset row and leaves a distance in range (R184). -/
theorem commitRow_dist_cases (s : State) : (commitRow s).dist = s.dist ∨
    ((s.active = .ofsLo ∨ s.active = .ofsHi) ∧ (commitRow s).distInRange) := by
  cases h : s.active
  case ofsLo =>
    cases ho : tokO s.tok
    · rw [commitRow_ofsLo_narrow h ho]
      exact .inr ⟨.inl rfl, afterOffset_distInRange (dist8_inRange _)⟩
    · rw [commitRow_ofsLo_wide h ho]
      exact .inl rfl
  case ofsHi =>
    rw [commitRow_ofsHi h]
    exact .inr ⟨.inr rfl, afterOffset_distInRange (dist16_inRange _ _)⟩
  all_goals
    left
    simp only [commitRow, h]
  all_goals split_ifs <;> rfl

/-- A step keeps the distance, or is an offset state's and leaves a distance in range (R184). -/
theorem step_dist_cases (h : step s = .next t) : t.dist = s.dist ∨
    ((s.st = .ofsLo ∨ s.st = .ofsHi) ∧ t.distInRange) := by
  rcases step_next_cases h with rfl | ⟨hr, -, ⟨-, rfl⟩ | ⟨-, e, -, rfl⟩⟩
  · exact .inl rfl
  · rw [← active_of hr]; exact commitRow_dist_cases s
  · exact .inl rfl

end Sys2Proof.Machine

open Sys2Proof Sys2Proof.Machine

/-- Settles O16, by the two things a step can do to the distance. -/
theorem changedDistanceIsInRange : Obligations.ChangedDistanceIsInRange := by
  unfold Obligations.ChangedDistanceIsInRange
  intro s t h
  rcases step_dist_cases h with hkept | ⟨hst, hrange⟩
  · exact ⟨.inl hkept, fun _ _ => hkept⟩
  · exact ⟨.inr hrange, fun hlo hhi => absurd hst (not_or.2 ⟨hlo, hhi⟩)⟩

/-- Settles O14: the read, the distance and the route, then the step that runs it, then the distance as a number. -/
theorem oneByteOffsetResolves : Obligations.OneByteOffsetResolves := by
  unfold Obligations.OneByteOffsetResolves
  refine ⟨fun s lo _ hlt => ?_, fun s hr hs ho => step_ofsLo_narrow (active_of_st hr hs) ho, fun lo => ?_⟩
  · have hread : exec (.ofs8 lo) s = .next (afterOffset (s.advanceIn.setDist (dist8 lo))) := readStep_next hlt _ _
    refine ⟨fun hm => ?_, fun hm => ?_⟩
    · rw [hread, afterOffset_setDist_extended (s := s.advanceIn) hm (dist8_toNat lo)]; rfl
    · rw [hread, afterOffset_setDist_inline (s := s.advanceIn) hm (dist8_toNat lo)]; rfl
  · have hlt := lo.isLt
    exact ⟨Nat.mod_eq_of_lt (by omega), by omega, by omega, toInt_ff_append lo⟩

/-- Settles O15: the low byte is kept, the high byte gives the distance and the route. -/
theorem twoByteOffsetResolves : Obligations.TwoByteOffsetResolves := by
  unfold Obligations.TwoByteOffsetResolves
  refine ⟨fun s lo hi hlt => ?_, fun s hr hs ho => ?_, fun lo hi => ?_⟩
  · have hread (hs : s.st = .ofsHi) :
        exec (.ofs16 lo hi) s = .next (afterOffset (s.advanceIn.setDist (dist16 s.ext hi))) :=
      (exec_ofs16_high hs lo hi).trans (readStep_next hlt _ _)
    refine ⟨fun hs => ?_, fun hs hm => ?_, fun hs hm => ?_⟩
    · rw [exec_ofs16_low hs, readStep_next hlt]; rfl
    · rw [hread hs, afterOffset_setDist_extended (s := s.advanceIn) hm (dist16_toNat s.ext hi)]; rfl
    · rw [hread hs, afterOffset_setDist_inline (s := s.advanceIn) hm (dist16_toNat s.ext hi)]; rfl
  · rw [step_ofsLo_wide (active_of_st hr hs) ho, exec_ofs16_low hs]
  · have hlo := lo.isLt
    have hhi := hi.isLt
    exact ⟨Nat.mod_eq_of_lt (by omega), by omega, by omega⟩
end

section
/-! PROOF. The match lengths: what each extension's micro-steps make of the match length (43_match.md R191 to R194), the
sentinel (R197), and the ways a run ends (R198). -/

namespace Sys2Proof.Machine

open Sys2Proof

variable {s t : State} {n : Half} {k : Nat}

/-! ### The match length -/

/-- The length as a number (R191 to R193). -/
theorem matchLength_eq (hn : n.toNat = k) (s : State) :
    matchLength n s = { s with mlen := BitVec.ofNat 16 k, st := .mcopy } := by
  subst hn
  rw [BitVec.ofNat_toNat, BitVec.setWidth_eq]; rfl

/-- A word above 0 is a length (R194). -/
theorem matchWord_eq (hn : n.toNat = k) (hk : 0 < k) (s : State) :
    matchWord n s = { s with mlen := BitVec.ofNat 16 k, st := .mcopy } :=
  (if_neg (ne_zero_of_toNat_pos (hn ▸ hk))).trans (matchLength_eq hn s)

theorem exec_mextByte_first (hs : s.st = .mext) (f : Byte) :
    exec (.mextByte f) s = readStep s .mext fun t => t.goto .mextB := by
  simp only [exec, execMextByte, hs]

theorem exec_mextByte_length (hs : s.st = .mextB) (f : Byte) :
    exec (.mextByte f) s = readStep s .mextB (matchLength (matchByte f)) := by
  simp only [exec, execMextByte, hs]

theorem exec_mextWord_first (hs : s.st = .mext) (lo hi : Byte) :
    exec (.mextWord lo hi) s = readStep s .mext fun t => t.goto .mextWL := by
  simp only [exec, execMextWord, hs]

theorem exec_mextWord_low (hs : s.st = .mextWL) (lo hi : Byte) :
    exec (.mextWord lo hi) s = readStep s .mextWL fun t => (t.setExt lo).goto .mextWH := by
  simp only [exec, execMextWord, hs]

theorem exec_mextWord_high (hs : s.st = .mextWH) (lo hi : Byte) :
    exec (.mextWord lo hi) s = readStep s .mextWH fun t => matchWord (le16 t.ext hi) t := by
  simp only [exec, execMextWord, hs]

theorem exec_mextEod_first (hs : s.st = .mext) : exec .mextEod s = readStep s .mext fun t => t.goto .mextWL := by
  simp only [exec, execMextEod, hs]

theorem exec_mextEod_low (hs : s.st = .mextWL) :
    exec .mextEod s = readStep s .mextWL fun t => (t.setExt 0).goto .mextWH := by
  simp only [exec, execMextEod, hs]

theorem exec_mextEod_high (hs : s.st = .mextWH) : exec .mextEod s = readStep s .mextWH fun t => t.goto .done := by
  simp only [exec, execMextEod, hs]

/-! ### The ends of a run -/

/-- In DONE the engine acts no more, with `rst` held or released (44_control.md R226). -/
theorem accesses_done (hs : s.st = .done) : accesses s = [] := by
  refine accesses_quiet ?_
  cases hr : s.rst
  · simp [active_of_st hr hs]
  · simp [active_of_rst hr]

/-- A state that only reads accesses no byte but the one at the read cursor. -/
theorem eq_inRead_of_mem_accesses (hs : s.st ∉ [Fsm.idle, .done, .fault, .lcopy, .mcopy]) {a : Access}
    (ha : a ∈ accesses s) : a = .inRead s.rp.toNat := by
  cases hr : s.rst
  · rw [accesses_read (by rwa [active_of hr])] at ha
    split_ifs at ha
    · cases ha
    · exact List.mem_singleton.1 ha
  · rw [accesses_idle (active_of_rst hr)] at ha
    cases ha

/-- A row of a working state leads to a working state, or is the sentinel's last (R197, R198). -/
theorem commitRow_end_cases (hr : s.rst = false) (hb : isBusy s = true) : isBusy (commitRow s) = true ∨
    (s.st = .mextWH ∧ s.ext = 0 ∧ s.readIn s.rp.toNat = 0 ∧ commitRow s = { s with rp := s.rp + 1, st := .done }) := by
  have hst := active_of hr
  cases ha : s.active <;> rw [ha] at hst
  case mextWH =>
    rw [commitRow_mextWH ha]
    by_cases h0 : le16 s.ext (s.readIn s.rp.toNat) = 0
    · obtain ⟨he, hbyte⟩ := (le16_eq_zero _ _).1 h0
      exact .inr ⟨hst.symm, he, hbyte, by rw [h0]; rfl⟩
    · rw [matchWord_pos h0]; exact .inl rfl
  all_goals
    left
    simp only [commitRow, ha]
  case idle | done | fault => exact hb
  case lextB | lextWL | mextB | mextWL => rfl
  case lcopy | mcopy =>
    split_ifs
    · rfl
    · exact hb
  all_goals split_ifs <;> rfl

/-- A step that ends a run is the sentinel's last, or fault entry in checked mode (R198). -/
theorem step_end_cases (h : step s = .next t) (hne : t ≠ s) (ht : isBusy t = false) :
    (s.st = .mextWH ∧ s.ext = 0 ∧ s.readIn s.rp.toNat = 0 ∧ t = { s with rp := s.rp + 1, st := .done }) ∨
    (s.chk = true ∧ ∃ e, pendingEvent s = some e ∧ t = s.takeFault s.st e) := by
  rcases step_next_cases h with hkept | ⟨hr, hb, ⟨-, rfl⟩ | hfault⟩
  · exact absurd hkept hne
  · rcases commitRow_end_cases hr hb with hbusy | hend
    · rw [ht] at hbusy; cases hbusy
    · exact .inl hend
  · exact .inr hfault

/-- Every working state but MCOPY reads, and raises at or past IN_END (20_memory.md R70). -/
theorem step_inOverrun (hr : s.rst = false) (hb : isBusy s = true) (hs : s.st ≠ .mcopy) (hle : s.inEnd ≤ s.rp) :
    step s = raise s s.st .inOverrun := by
  have hp : pendingEvent s = some .inOverrun := by
    obtain ⟨hidle, hdone, hfault⟩ := (isBusy_iff s).1 hb
    have hst := active_of hr
    cases ha : s.active <;> rw [ha] at hst
    case idle => exact absurd hst.symm hidle
    case done => exact absurd hst.symm hdone
    case fault => exact absurd hst.symm hfault
    case mcopy => exact absurd hst.symm hs
    all_goals simp only [pendingEvent, ha, if_pos hle]
  rw [step_eq_transition, transition_of_some hp]

end Sys2Proof.Machine

open Sys2Proof Sys2Proof.Machine

/-- Settles O17: each micro-step reads its byte, and the last one of each form gives the length. -/
theorem matchExtensionsResolve : Obligations.MatchExtensionsResolve := by
  unfold Obligations.MatchExtensionsResolve
  intro s hlt
  refine ⟨fun e _ _ => ?_, fun f hs => ?_, fun f hs => ?_, fun lo hi hs => ?_, fun lo hi hs => ?_,
    fun lo hi hs hpos => ?_⟩
  · refine (readStep_next hlt _ _).trans ?_
    rw [matchLength_eq (matchShort_toNat e)]; rfl
  · rw [exec_mextByte_first hs, readStep_next hlt]; rfl
  · rw [exec_mextByte_length hs, readStep_next hlt, matchLength_eq (matchByte_toNat f)]; rfl
  · rw [exec_mextWord_first hs, readStep_next hlt]; rfl
  · rw [exec_mextWord_low hs, readStep_next hlt]; rfl
  · rw [exec_mextWord_high hs, readStep_next hlt, State.advanceIn_ext,
      matchWord_eq (le16_toNat s.ext hi) hpos]; rfl

/-- Settles O18: past the bound test the reserved row raises, as its mode has it. -/
theorem reservedMatchExtensionRaises : Obligations.ReservedMatchExtensionRaises := by
  unfold Obligations.ReservedMatchExtensionRaises
  intro s hs hlt
  have hraise (e : Byte) : exec (.mextRsvd e) s = raise s .mext .rsvdMext := reservedStep_raise hlt _ _
  refine ⟨fun e hc => ?_, fun e hc => ?_, fun hr hb => ?_⟩
  · rw [hraise, raise_checked hc]; rfl
  · rw [hraise, raise_unchecked hc]
  · exact step_mext_rsvd (active_of_st hr hs) hb

/-- Settles O19: three reads, the last one into DONE, where the engine stands still. -/
theorem sentinelEndsTheRun : Obligations.SentinelEndsTheRun := by
  unfold Obligations.SentinelEndsTheRun
  intro s hlt
  refine ⟨fun hs => ?_, fun hs => ?_, fun hs => ?_⟩
  · rw [exec_mextEod_first hs, readStep_next hlt]; rfl
  · rw [exec_mextEod_low hs, readStep_next hlt]; rfl
  · refine ⟨_, (exec_mextEod_high hs).trans (readStep_next hlt _ _), rfl, rfl, rfl, ?_,
      fun a => eq_inRead_of_mem_accesses (by simp [hs]), fun k => ⟨run_quiet (.inr (.inl rfl)) k, accesses_done rfl⟩⟩
    have hresult := resultWord_toNat (s.advanceIn.goto .done)
    have horg := s.org.isLt
    rw [State.goto_org, State.goto_wp, State.advanceIn_org, State.advanceIn_wp, ← Nat.sub_add_comm (by omega),
      Nat.add_comm (2 ^ 32)] at hresult
    exact hresult

/-- Settles O20: by the two ways a step ends a run, and the read test of every state but MCOPY. -/
theorem sentinelIsOnlyNormalEnd : Obligations.SentinelIsOnlyNormalEnd := by
  unfold Obligations.SentinelIsOnlyNormalEnd
  refine ⟨fun s t hstep hs ht => ?_, fun s t hstep hb ht => ?_, fun s hr hb hs hle => ?_⟩
  · have hne : t ≠ s := fun h => hs (h ▸ ht)
    rcases step_end_cases hstep hne (by simp [isBusy, ht]) with ⟨hst, hext, hbyte, rfl⟩ | ⟨-, e, -, rfl⟩
    · exact ⟨hst, hext, hbyte, rfl, fun hinv => hinv.match_ext (by simp [hst])⟩
    · cases ht
  · have hne : t ≠ s := fun h => by rw [h, hb] at ht; cases ht
    rcases step_end_cases hstep hne ht with ⟨-, -, -, rfl⟩ | ⟨hchk, e, -, rfl⟩
    · exact .inl rfl
    · exact .inr ⟨rfl, hchk⟩
  · rw [step_inOverrun hr hb hs hle]
    exact ⟨fun hc => ⟨_, raise_checked hc _ _, rfl, rfl⟩, fun hc => raise_unchecked hc _ _⟩
end

section
/-! PROOF. The match copier: one match byte (43_match.md R200), the first `k` bytes of a match (R202), what they repeat
(R203), and the origin test (R201). -/

namespace Sys2Proof.Machine

open Sys2Proof

variable {s t : State} {k : Nat}

/-! ### One match byte -/

/-- The match copy in contract as a whole state: the write cursor, the count, the route, and the one OUT byte. -/
theorem matchCopy_effect (ho : s.org.toNat + s.dist.toNat ≤ s.wp.toNat) (hwlt : s.wp < s.outEnd) :
    ∃ t : State, matchCopy s = .next t ∧
      t = { s with
        wp := s.wp + 1
        mlen := s.mlen - 1
        st := if s.mlen = 1 then .token else .mcopy
        outMem := t.outMem } ∧
      (s.wp.toNat < Config.outSize → t.readOut s.wp.toNat = s.readOut (s.wp.toNat - s.dist.toNat)) ∧
      ∀ a : Nat, a ≠ s.wp.toNat → t.readOut a = s.readOut a := by
  refine ⟨_, matchCopy_next (beforeOrigin_eq_false.2 ho) hwlt, ?_, s.readOut_writeOut_same _,
    fun a => s.readOut_writeOut_other _⟩
  have hlast : s.mlen = 1 ↔ s.mlen - 1 = 0 := by bv_omega
  simp only [hlast]
  rfl

/-! ### A match run -/

/-- The first `k` micro-steps of a match lead from `s` to `t`: each of the `k` bytes written is the one a distance
before it, and nothing else of OUT and of the registers changed (R200, R202). -/
structure MatchCopied (k : Nat) (s t : State) : Prop where
  run : run k s = .next t
  same : t = { s with wp := t.wp, mlen := t.mlen, st := t.st, outMem := t.outMem }
  wp : t.wp.toNat = s.wp.toNat + k
  mlen : t.mlen.toNat = s.mlen.toNat - k
  st : t.st = if k = s.mlen.toNat then .token else .mcopy
  bytes : ∀ i, i < k → s.wp.toNat + i < Config.outSize →
    t.readOut (s.wp.toNat + i) = t.readOut (s.wp.toNat + i - s.dist.toNat)
  kept : ∀ a, a < s.wp.toNat ∨ s.wp.toNat + k ≤ a → t.readOut a = s.readOut a

theorem MatchCopied.zero (hs : s.st = .mcopy) (hn : s.mlen ≠ 0) : MatchCopied 0 s s where
  run := rfl
  same := rfl
  wp := rfl
  mlen := rfl
  st := by rw [hs, if_neg (by bv_omega)]
  bytes _ hi := absurd hi (Nat.not_lt_zero _)
  kept _ _ := rfl

/-- While match bytes are left, one more micro-step copies one more byte: the origin test still passes, and no byte
copied before it is overwritten. At distance 0, which no run has, the byte is its own source. -/
theorem MatchCopied.succ (h : MatchCopied k s t) (hr : s.rst = false) (hk : k < s.mlen.toNat)
    (ho : s.org.toNat + s.dist.toNat ≤ s.wp.toNat) (hout : s.wp.toNat + s.mlen.toNat ≤ s.outEnd.toNat) :
    ∃ u, MatchCopied (k + 1) s u := by
  obtain ⟨hrun, hsame, hwp, hmlen, hst, hbytes, hkept⟩ := h
  have hframe := run_frame hrun
  have hdist : t.dist = s.dist := by rw [hsame]
  have hwlt : t.wp < t.outEnd := by rw [hframe.outEnd]; bv_omega
  rw [if_neg (by omega)] at hst
  obtain ⟨u, hu, husame, hbyte, hother⟩ := matchCopy_effect (s := t) (by rw [hframe.org, hdist]; omega) hwlt
  rw [← step_mcopy (active_of_st (hframe.rst.trans hr) hst)] at hu
  have hlast : t.mlen = 1 ↔ k + 1 = s.mlen.toNat := by bv_omega
  have huwp : u.wp = t.wp + 1 := congrArg State.wp husame
  have humlen : u.mlen = t.mlen - 1 := congrArg State.mlen husame
  have hust : u.st = if t.mlen = 1 then .token else .mcopy := congrArg State.st husame
  refine ⟨u, ⟨(run_add_of_next hrun).trans (run_one hu), ?_, ?_, ?_, ?_, fun i hi hsize => ?_, fun a ha => ?_⟩⟩
  · rw [huwp, humlen, hust, husame, hsame]
  · rw [huwp, advance_toNat hwlt, hwp, Nat.add_assoc]
  · rw [humlen]; bv_omega
  · simp only [hust, hlast]
  · rcases Nat.lt_succ_iff_lt_or_eq.1 hi with hik | rfl
    · rw [hother _ (by omega), hother _ (by omega), hbytes i hik hsize]
    · rcases Nat.eq_zero_or_pos s.dist.toNat with h0 | hpos
      · rw [h0, Nat.sub_zero]
      · rw [hwp, hdist] at hbyte
        rw [hbyte hsize, hother _ (by omega)]
  · rw [hother a (by omega), hkept a (by omega)]

/-- A match gets through each number of bytes up to its length (R202). -/
theorem exists_matchCopied (hr : s.rst = false) (hs : s.st = .mcopy) (hn : s.mlen ≠ 0) (hk : k ≤ s.mlen.toNat)
    (ho : s.org.toNat + s.dist.toNat ≤ s.wp.toNat) (hout : s.wp.toNat + s.mlen.toNat ≤ s.outEnd.toNat) :
    ∃ t, MatchCopied k s t := by
  induction k with
  | zero => exact ⟨s, .zero hs hn⟩
  | succ k ih =>
    obtain ⟨t, ht⟩ := ih (by omega)
    exact ht.succ hr hk ho hout

/-- A match repeats the `dist` bytes before it: going back by the distance from a byte it wrote ends among them
(R202). -/
theorem MatchCopied.periodic (h : MatchCopied k s t) (hpos : 1 ≤ s.dist.toNat) (hd : s.dist.toNat ≤ s.wp.toNat)
    {i : Nat} (hi : i < k) (hsize : s.wp.toNat + i < Config.outSize) :
    t.readOut (s.wp.toNat + i) = s.readOut (s.wp.toNat - s.dist.toNat + i % s.dist.toNat) := by
  induction i using Nat.strong_induction_on with
  | _ i ih =>
    rw [h.bytes i hi hsize]
    rcases Nat.lt_or_ge i s.dist.toNat with hlt | hge
    · rw [Nat.mod_eq_of_lt hlt, h.kept _ (by omega), Nat.sub_add_comm hd]
    · rw [Nat.mod_eq_sub_mod hge, Nat.add_sub_assoc hge, ih (i - s.dist.toNat) (by omega) (by omega) (by omega)]

/-! ### The origin test -/

/-- The origin event is MCOPY's alone (R201). -/
theorem st_of_origin_pending (h : pendingEvent s = some .origin) : s.st = .mcopy := by
  cases ha : s.active
  case mcopy => exact (st_of_active ha (by decide)).2
  all_goals simp only [pendingEvent, ha] at h
  case idle | done | fault => cases h
  all_goals split_ifs at h <;> cases h

theorem eq_origin_of_eventCode {e : Event} (h : eventCode e = 3) : e = .origin := by
  cases e
  case origin => rfl
  all_goals cases h

/-- A step that does not end in FAULT found no event pending and did its state's row. -/
theorem eq_commitRow_of_step (h : step s = .next t) (ht : t.st ≠ .fault) : pendingEvent s = none ∧ t = commitRow s := by
  rw [step_eq_transition] at h
  cases hp : pendingEvent s with
  | none =>
    rw [transition_of_none hp] at h
    cases h
    exact ⟨rfl, rfl⟩
  | some e =>
    rw [transition_of_some hp, raise] at h
    split_ifs at h
    cases h
    exact absurd rfl ht

/-- Where no event is pending the origin test passes (R201). -/
theorem origin_le_of_no_event (hp : pendingEvent s = none) (h : s.active = .mcopy) :
    s.org.toNat + s.dist.toNat ≤ s.wp.toNat := by
  refine Nat.not_lt.1 fun hlt => ?_
  simp only [pendingEvent, h, if_pos hlt] at hp
  cases hp

/-- Origin and distance stay over a match byte, and the write cursor moves away from them (R201). -/
theorem commitRow_passes_origin (hp : pendingEvent s = none) (h : s.active = .mcopy) :
    (commitRow s).org.toNat + (commitRow s).dist.toNat ≤ (commitRow s).wp.toNat := by
  have hwp : (commitRow s).wp = s.wp + 1 := by rw [commitRow_mcopy h]; rfl
  have hdist : (commitRow s).dist = s.dist := by rw [commitRow_mcopy h]; rfl
  rw [hwp, hdist, (StepFrame.commitRow hp).org, advance_toNat (wp_lt_of_no_event hp (.inr h))]
  exact Nat.le_succ_of_le (origin_le_of_no_event hp h)

end Sys2Proof.Machine

open Sys2Proof Sys2Proof.Machine

/-- Settles O22: the whole match is its first `mlen` bytes. -/
theorem matchRunCopiesForward : Obligations.MatchRunCopiesForward := by
  unfold Obligations.MatchRunCopiesForward
  intro s hr hs hn hpos ho hout
  obtain ⟨t, h⟩ := exists_matchCopied hr hs hn (Nat.le_refl _) ho hout
  have hmlen : t.mlen = 0 := BitVec.eq_of_toNat_eq (h.mlen.trans (Nat.sub_self _))
  have hst : t.st = .token := h.st.trans (if_pos rfl)
  exact ⟨t, h.run, hmlen ▸ hst ▸ h.same, h.wp,
    fun i hi hsize => ⟨h.bytes i hi hsize, h.periodic hpos (by omega) hi hsize⟩, h.kept⟩

/-- Settles O21: in MCOPY every token's meaning is the match copy. -/
theorem tokensCopyOneMatchByte : Obligations.TokensCopyOneMatchByte := by
  unfold Obligations.TokensCopyOneMatchByte
  intro i s hi hs _ ho hwlt
  obtain ⟨first, hfirst⟩ := exec_token hi
  rw [hfirst, tokenMicro_mcopy hs]
  exact matchCopy_effect ho hwlt

/-- Settles O23: the byte written is the one at `i` modulo the distance, which 1 and 2 leave few values for. -/
theorem shortDistancesReplicate : Obligations.ShortDistancesReplicate := by
  unfold Obligations.ShortDistancesReplicate
  intro s hr hs hn ho hout
  obtain ⟨t, h⟩ := exists_matchCopied hr hs hn (Nat.le_refl _) ho hout
  refine ⟨t, h.run, fun hd i hi hsize => ?_, fun hd i hi hsize => ?_⟩
  · have h1 : s.dist.toNat = 1 := congrArg BitVec.toNat hd
    rw [h.periodic (by omega) (by omega) hi hsize, h1, Nat.mod_one, Nat.add_zero]
  · have h2 : s.dist.toNat = 2 := congrArg BitVec.toNat hd
    rw [h.periodic (by omega) (by omega) hi hsize, h2]
    congr 1
    split_ifs <;> omega

/-- Settles O24: a byte is copied only past the origin test, and no other state has its event. -/
theorem originTestFailsOnlyFirst : Obligations.OriginTestFailsOnlyFirst := by
  unfold Obligations.OriginTestFailsOnlyFirst
  refine ⟨fun s t hr hs hstep ht => ?_, fun s hr hs hlt => ?_, fun s t hstep hs hf ht hcode => ?_⟩
  · obtain ⟨hp, rfl⟩ := eq_commitRow_of_step hstep (by simp [ht])
    exact commitRow_passes_origin hp (active_of_st hr hs)
  · rw [step_mcopy (active_of_st hr hs), matchCopy_origin (decide_eq_true hlt)]
  · have hne : t ≠ s := fun h => hf (h ▸ ht)
    rcases step_end_cases hstep hne (by simp [isBusy, ht]) with ⟨-, -, -, rfl⟩ | ⟨-, e, hp, rfl⟩
    · cases ht
    · exact hs (st_of_origin_pending (eq_origin_of_eventCode hcode ▸ hp))
end

section
/-! PROOF. How a step runs and how a run begins: the step as its row, the decoded instruction of each FSM state, the
stops of a step, the quiet states and START (44_control.md R220, R221, R224). -/

namespace Sys2Proof.Machine

open Sys2Proof

variable {s : State} {i : Instr} {sp : Space} {bs rest : List Byte}

/-- Whatever instruction the bytes of the window decode to, the step is its meaning. -/
theorem step_of_decode (hw : fetchWindow s = some (sp, bs.getD 0 0, bs.getD 1 0, bs.getD 2 0))
    (hd : decode sp bs = .ok (i, rest)) : step s = exec i s := by
  obtain ⟨hi, -, -⟩ := decode_eq_ok_iff.1 hd
  exact step_of_fetch (by rw [fetch, hw, ← hi])

/-- A window of three bytes holds a whole instruction in every space (30_encoding.md R92 to R94, R97). -/
theorem decode_window (sp : Space) (b0 b1 b2 : Byte) : ∃ i rest, decode sp [b0, b1, b2] = .ok (i, rest) :=
  ⟨_, _, decode_eq_ok_iff.2 ⟨rfl, size_le _, rfl⟩⟩

/-- A step that stops raises its pending event in unchecked mode (60_exceptions.md R252); it never refuses. -/
theorem step_stop_cases (s : State) : (∃ t, step s = .next t) ∨
    (s.chk = false ∧ ∃ e, pendingEvent s = some e ∧ step s = .fault (.unspecified e)) := by
  rw [step_eq_transition]
  cases hp : pendingEvent s with
  | none => exact .inl ⟨_, transition_of_none hp⟩
  | some e =>
    rw [transition_of_some hp]
    cases hc : s.chk with
    | true => exact .inl ⟨_, raise_checked hc _ _⟩
    | false => exact .inr ⟨rfl, e, rfl, raise_unchecked hc _ _⟩

/-- In IDLE, DONE and FAULT, and while `rst` is asserted, no action is performed (R220, 70_reset_and_hazards.md
R280). -/
theorem active_quiet (h : s.st = .idle ∨ s.st = .done ∨ s.st = .fault ∨ s.rst = true) :
    s.active ∈ [Fsm.idle, .done, .fault] := by
  cases hr : s.rst
  · rw [active_of hr]
    rcases h with h | h | h | h
    · simp [h]
    · simp [h]
    · simp [h]
    · rw [hr] at h; cases h
  · rw [active_of_rst hr]; simp

theorem step_of_active_mem_quiet (h : s.active ∈ [Fsm.idle, .done, .fault]) : step s = .next s :=
  step_of_active_quiet (by simpa using h)

end Sys2Proof.Machine

open Sys2Proof Sys2Proof.Machine

/-- Settles O25, FSM state by FSM state. -/
theorem stepIsTheTransitionFunction : Obligations.StepIsTheTransitionFunction := by
  unfold Obligations.StepIsTheTransitionFunction
  exact step_eq_transition

/-- Settles O5: the window of each FSM state, decoded. -/
theorem stepRunsDecodedInstruction : Obligations.StepRunsDecodedInstruction := by
  unfold Obligations.StepRunsDecodedInstruction
  refine ⟨fun s hr => ⟨fun i rest hs => ?_, fun i rest hs => ?_, fun i rest hs => ?_, fun i rest hs => ?_,
    fun hs => ?_, fun hs => ?_, fun hs => ?_, fun hs => ?_, fun hs => ?_, fun i rest hs => ?_, fun i rest hs => ?_,
    fun i rest hs => ?_⟩, fun s hs => step_of_active_mem_quiet (active_quiet hs), decode_window⟩
  case refine_5 | refine_6 | refine_7 | refine_8 | refine_9 =>
    exact step_of_fetch (by simp only [fetch, fetchWindow, active_of_st hr hs]; rfl)
  case refine_12 =>
    rcases hs with hs | hs <;> exact step_of_decode (by simp only [fetchWindow, active_of_st hr hs]; rfl)
  all_goals exact step_of_decode (by simp only [fetchWindow, active_of_st hr hs]; rfl)

/-- Settles O26: no access and no action in a quiet state, so it stays. -/
theorem quietStatesDoNothing : Obligations.QuietStatesDoNothing := by
  unfold Obligations.QuietStatesDoNothing
  intro s hs
  have hq := active_quiet hs
  exact ⟨accesses_quiet hq, run_of_fixed (step_of_active_mem_quiet hq)⟩

/-- Settles O43, by the two ways a step can go. -/
theorem stepNeverRefuses : Obligations.StepNeverRefuses := by
  unfold Obligations.StepNeverRefuses
  intro s
  rcases step_stop_cases s with ⟨t, h⟩ | ⟨-, e, -, h⟩ <;> rw [h]
  · exact ⟨nofun, nofun⟩
  · exact ⟨nofun, fun f hf => ⟨e, by cases hf; rfl⟩⟩

/-- Settles O51: the CTRL write outside a run is `start`, whose fields are these. -/
theorem startBeginsARun : Obligations.StartBeginsARun := by
  unfold Obligations.StartBeginsARun
  intro s v hr hb hv
  have hstart : hostStep (.writeReg 4 0x00 v) s = .next (start s v) := by
    rw [hostStep_writeReg (r := .ctrl) rfl, writeReg_ctrl hr, writeCtrl_start hb hv]
  refine ⟨hstart, fun t ht => ?_⟩
  rw [hstart] at ht
  cases ht
  exact ⟨rfl, rfl, rfl⟩
end

section
/-! PROOF. The frame of the instructions (44_control.md R221): what an instruction that answers a state has done, said
once for all 27 rows, and what each kind of effect leaves as it was. -/

namespace Sys2Proof.Machine

open Sys2Proof

variable {s t : State} {i : Instr}

/-- Raising answers a state by fault entry only (60_exceptions.md R254). -/
theorem eq_takeFault_of_raise {f : Fsm} {e : Event} (h : raise s f e = .next t) : t = s.takeFault f e := by
  unfold raise at h
  split_ifs at h
  cases h; rfl

/-- What an instruction that answers a state can have done, by its space: fault entry, or an update of the registers
that the instruction writes (44_control.md R221, the 'writes' column). -/
inductive ExecEffect (i : Instr) (s : State) : State → Prop where
  | fault (f : Fsm) (e : Event) : ExecEffect i s (s.takeFault f e)
  | token (hi : i.space = .token) (hl : s.st ≠ .lcopy) (hm : s.st ≠ .mcopy) (f : Fsm) (b : Byte) (d : BitVec 4)
      (n : Half) : ExecEffect i s { s with rp := s.rp + 1, st := f, tok := b, bid := d, llen := n }
  | literalCopied (hi : i.space = .token) (hl : s.st = .lcopy) (f : Fsm) (v : Byte) (n : Half) : ExecEffect i s
      { s with rp := s.rp + 1, wp := s.wp + 1, st := f, llen := n, outMem := s.outMem.writeOut s.wp.toNat v }
  | matchCopied (hi : i.space = .token) (hm : s.st = .mcopy) (f : Fsm) (v : Byte) (n : Half) : ExecEffect i s
      { s with wp := s.wp + 1, st := f, mlen := n, outMem := s.outMem.writeOut s.wp.toNat v }
  | litExt (hi : i.space = .litExt) (f : Fsm) (x : Byte) (hx : i.size ≤ 2 → x = s.ext) (n : Half) :
      ExecEffect i s { s with rp := s.rp + 1, st := f, ext := x, llen := n }
  | offset (w : Bool) (hi : i.space = .ofs w) (f : Fsm) (x : Byte) (hx : w = false → x = s.ext) (n : Half)
      (d : BitVec 17) : ExecEffect i s { s with rp := s.rp + 1, st := f, ext := x, mlen := n, dist := d }
  | matchExt (hi : i.space = .matchExt) (f : Fsm) (x : Byte) (hx : i.size ≤ 2 → x = s.ext) (n : Half) :
      ExecEffect i s { s with rp := s.rp + 1, st := f, ext := x, mlen := n }

theorem ExecEffect.of_raise {f : Fsm} {e : Event} (h : raise s f e = .next t) : ExecEffect i s t :=
  eq_takeFault_of_raise h ▸ .fault f e

/-- A micro-step that reads a byte has the effect of its update, or enters FAULT. -/
theorem ExecEffect.of_readStep {f : Fsm} {u : State → State} (h : readStep s f u = .next t)
    (hu : ExecEffect i s (u s.advanceIn)) : ExecEffect i s t := by
  rcases lt_or_le s.rp s.inEnd with hr | hr
  · rw [readStep_next hr] at h; cases h; exact hu
  · rw [readStep_overrun hr] at h; exact .of_raise h

/-- A reserved byte commits nothing (30_encoding.md R98). -/
theorem ExecEffect.of_reservedStep {f : Fsm} {e : Event} (h : reservedStep s f e = .next t) : ExecEffect i s t := by
  rcases lt_or_le s.rp s.inEnd with hr | hr
  · rw [reservedStep_raise hr] at h; exact .of_raise h
  · rw [reservedStep_overrun hr] at h; exact .of_raise h

theorem ExecEffect.of_literalCopy (hi : i.space = .token) (hs : s.st = .lcopy) (h : literalCopy s = .next t) :
    ExecEffect i s t := by
  rcases lt_or_le s.rp s.inEnd with hr | hr
  · rcases lt_or_le s.wp s.outEnd with hw | hw
    · rw [literalCopy_next hr hw] at h; cases h; exact .literalCopied hi hs _ _ _
    · rw [literalCopy_outOverrun hr hw] at h; exact .of_raise h
  · rw [literalCopy_inOverrun hr] at h; exact .of_raise h

theorem ExecEffect.of_matchCopy (hi : i.space = .token) (hs : s.st = .mcopy) (h : matchCopy s = .next t) :
    ExecEffect i s t := by
  cases ho : beforeOrigin s with
  | true => rw [matchCopy_origin ho] at h; exact .of_raise h
  | false =>
    rcases lt_or_le s.wp s.outEnd with hw | hw
    · rw [matchCopy_next ho hw] at h; cases h; exact .matchCopied hi hs _ _ _
    · rw [matchCopy_outOverrun ho hw] at h; exact .of_raise h

/-- Every token's own read writes `tok`, `bid` and, for an inline length, `llen` (40_dispatch.md R120). -/
theorem exec_token_read (hi : i.space = .token) : ∃ b d,
    exec i = tokenMicro (extendedToken b d) ∨ ∃ n, exec i = tokenMicro (inlineToken b d n) := by
  cases i with
  | ofs8 | ofs16 | lextShort | lextWord | lextByte | lextRsvd | mextShort | mextWord | mextEod | mextByte
  | mextRsvd => cases hi
  | tokLXM | tokLXMX => exact ⟨_, _, .inl rfl⟩
  | _ => exact ⟨_, _, .inr ⟨_, rfl⟩⟩

theorem ExecEffect.of_token (hi : i.space = .token) (h : exec i s = .next t) : ExecEffect i s t := by
  obtain ⟨first, hfirst⟩ := exec_token hi
  by_cases hl : s.st = .lcopy
  · rw [hfirst, tokenMicro_lcopy hl] at h; exact .of_literalCopy hi hl h
  by_cases hm : s.st = .mcopy
  · rw [hfirst, tokenMicro_mcopy hm] at h; exact .of_matchCopy hi hm h
  obtain ⟨b, d, hread | ⟨n, hread⟩⟩ := exec_token_read hi
  · rw [hread, tokenMicro_read hl hm] at h
    exact .of_readStep h (.token hi hl hm _ _ _ _)
  · rw [hread, tokenMicro_read hl hm] at h
    exact .of_readStep h (.token hi hl hm _ _ _ _)

/-- After an offset the match field gives a length or nothing, and a route (42_offset.md R185). -/
theorem afterOffset_eq (s : State) : ∃ f n, afterOffset s = { s with st := f, mlen := n } := by
  by_cases h : tokM s.tok = 15
  · exact ⟨_, _, afterOffset_extended h⟩
  · exact ⟨_, _, afterOffset_inline h⟩

theorem ExecEffect.afterOffset {w : Bool} (hi : i.space = .ofs w) (d : BitVec 17) :
    ExecEffect i s (afterOffset (s.advanceIn.setDist d)) := by
  obtain ⟨f, n, h⟩ := afterOffset_eq (s.advanceIn.setDist d)
  rw [h]; exact .offset w hi _ _ (fun _ => rfl) _ _

theorem ExecEffect.matchWord (hi : i.space = .matchExt) (n : Half) : ExecEffect i s (matchWord n s.advanceIn) := by
  by_cases h : n = 0
  · rw [h, matchWord_zero]; exact .matchExt hi _ _ (fun _ => rfl) _
  · rw [matchWord_pos h]; exact .matchExt hi _ _ (fun _ => rfl) _

/-- Every instruction has one of the effects, form by form. -/
theorem ExecEffect.of_exec (h : exec i s = .next t) : ExecEffect i s t := by
  cases i with
  | ofs8 lo => exact .of_readStep h (.afterOffset rfl _)
  | ofs16 lo hi =>
    simp only [exec, execOfs16] at h
    split at h
    · exact .of_readStep h (.afterOffset rfl _)
    · exact .of_readStep h (.offset true rfl _ _ nofun _ _)
  | lextShort e => exact .of_readStep h (.litExt rfl _ _ (fun _ => rfl) _)
  | lextWord lo hi =>
    simp only [exec, execLextWord] at h
    split at h
    · exact .of_readStep h (.litExt rfl _ _ (by simp [Instr.size]) _)
    · exact .of_readStep h (.litExt rfl _ _ (fun _ => rfl) _)
    · exact .of_readStep h (.litExt rfl _ _ (fun _ => rfl) _)
  | lextByte f =>
    simp only [exec, execLextByte] at h
    split at h
    · exact .of_readStep h (.litExt rfl _ _ (fun _ => rfl) _)
    · exact .of_readStep h (.litExt rfl _ _ (fun _ => rfl) _)
  | lextRsvd e => exact .of_reservedStep h
  | mextShort e => exact .of_readStep h (.matchExt rfl _ _ (fun _ => rfl) _)
  | mextWord lo hi =>
    simp only [exec, execMextWord] at h
    split at h
    · exact .of_readStep h (.matchExt rfl _ _ (by simp [Instr.size]) _)
    · exact .of_readStep h (.matchWord rfl _)
    · exact .of_readStep h (.matchExt rfl _ _ (fun _ => rfl) _)
  | mextEod =>
    simp only [exec, execMextEod] at h
    split at h
    · exact .of_readStep h (.matchExt rfl _ _ (by simp [Instr.size]) _)
    · exact .of_readStep h (.matchExt rfl _ _ (fun _ => rfl) _)
    · exact .of_readStep h (.matchExt rfl _ _ (fun _ => rfl) _)
  | mextByte f =>
    simp only [exec, execMextByte] at h
    split at h
    · exact .of_readStep h (.matchExt rfl _ _ (fun _ => rfl) _)
    · exact .of_readStep h (.matchExt rfl _ _ (fun _ => rfl) _)
  | mextRsvd e => exact .of_reservedStep h
  | _ => exact .of_token rfl h

end Sys2Proof.Machine

open Sys2Proof Sys2Proof.Machine

/-- Settles O47: each effect leaves what its registers are not. -/
theorem instructionsKeepTheRest : Obligations.InstructionsKeepTheRest := by
  unfold Obligations.InstructionsKeepTheRest
  intro i s t h
  cases ExecEffect.of_exec h with
  | fault f e => simp [State.readOut, State.takeFault]
  | token hi hl hm f b d n => simp [State.readOut, hi, hl, hm]
  | literalCopied hi hl f v n => simp +contextual [State.readOut, Mem.read_writeOut_other, hi, hl]
  | matchCopied hi hm f v n => simp +contextual [State.readOut, Mem.read_writeOut_other, hi, hm]
  | litExt hi f x hx n => simpa [State.readOut, hi] using hx
  | offset w hi f x hx n d => simpa [State.readOut, hi] using hx
  | matchExt hi f x hx n => simpa [State.readOut, hi] using hx
end

section
/-! PROOF. Every run ends (44_control.md R227): a count of the micro-steps a run may still take, from the bytes of the
block left and the match bytes left, which every committed row lowers. -/

namespace Sys2Proof.Machine

open Sys2Proof

variable {s t : State} {k n : Nat} {e : Event}

/-! ### How a run ends -/

/-- In `k` micro-steps the run ends: in DONE, in FAULT in checked mode, or as `Unspecified` in unchecked mode. -/
def EndsIn (k : Nat) (s : State) : Prop :=
  (∃ t : State, run k s = .next t ∧ t.st = .done) ∨
  (s.chk = true ∧ ∃ t : State, run k s = .next t ∧ t.st = .fault) ∨
  (s.chk = false ∧ ∃ e : Event, run k s = .fault (.unspecified e))

theorem EndsIn.zero (h : s.st = .done) : EndsIn 0 s := .inl ⟨s, rfl, h⟩

/-- A pending event ends the run, in the way of the mode (60_exceptions.md R250). -/
theorem EndsIn.of_event (h : pendingEvent s = some e) : EndsIn 1 s := by
  have hstep : step s = raise s s.st e := (step_eq_transition s).trans (transition_of_some h)
  cases hc : s.chk with
  | true => rw [raise_checked hc] at hstep; exact .inr (.inl ⟨hc, _, run_one hstep, rfl⟩)
  | false => rw [raise_unchecked hc] at hstep; exact .inr (.inr ⟨hc, e, run_succ_of_fault hstep⟩)

theorem EndsIn.succ (hs : step s = .next t) (h : EndsIn k t) : EndsIn (k + 1) s := by
  have hchk := (step_frame hs).chk
  unfold EndsIn at h ⊢
  rwa [run_succ_of_next hs, ← hchk]

theorem EndsIn.isOver (h : EndsIn k s) : isOver (run k s) = true := by
  obtain ⟨t, hrun, ht⟩ | ⟨-, t, hrun, ht⟩ | ⟨-, e, hrun⟩ := h <;> rw [hrun]
  · simp [Machine.isOver, State.over, isDone, ht]
  · simp [Machine.isOver, State.over, isFault, ht]
  · rfl

/-- A run that is over has an observation (44_control.md R231). -/
theorem exists_observeRun (h : isOver (run k s) = true) : ∃ o, observeRun k s = some o := by
  induction k generalizing s with
  | zero =>
    have h : (isDone s || isFault s) = true := h
    rw [Bool.or_eq_true, isDone_iff, isFault_iff] at h
    rcases h with h | h <;> simp [observeRun, observe, h]
  | succ k ih =>
    rcases step_stop_cases s with ⟨t, hs⟩ | ⟨-, e, -, hs⟩
    · rw [run_succ_of_next hs] at h
      simpa only [observeRun, hs] using ih h
    · exact ⟨_, by rw [observeRun, hs]⟩

/-! ### The micro-steps left -/

/-- How many bytes, at least, the record in progress has read when it is in this FSM state, as far as its match is still
to come. A record with a match takes two bytes at least, so half of these and the bytes left bounds the matches to
come. -/
def bytesSpent : Fsm → Nat
  | .idle | .token | .mcopy | .done | .fault => 0
  | .lext | .lextB | .lextWL | .lextWH | .lcopy | .ofsLo => 1
  | .ofsHi | .mext | .mextB | .mextWL | .mextWH => 2

/-- The bytes of the block left to read. -/
def State.bytesLeft (s : State) : Nat := s.inEnd.toNat - s.rp.toNat

/-- The match bytes left to copy of the match in progress. -/
def State.matchBytesLeft (s : State) : Nat := if s.st = .mcopy then s.mlen.toNat else 0

/-- A bound on the micro-steps left in a working state: one for each byte left, one for the event at the end, and the
match bytes of the match in progress and of those to come. -/
def State.stepsLeft (s : State) : Nat :=
  s.bytesLeft + 1 + s.matchBytesLeft + 65535 * ((s.bytesLeft + bytesSpent s.st) / 2)

/-- A row that reads a byte goes to MCOPY only after another byte of the record, and elsewhere spends at most the
byte it reads. -/
theorem commitRow_bytesSpent (hr : s.rst = false) (h : s.active ∉ [Fsm.idle, .done, .fault, .mcopy]) :
    (commitRow s).st = .mcopy ∧ 1 ≤ bytesSpent s.st ∨
    (commitRow s).st ≠ .mcopy ∧ bytesSpent (commitRow s).st ≤ bytesSpent s.st + 1 := by
  have hst := active_of hr
  cases ha : s.active
  case idle | done | fault | mcopy => simp [ha] at h
  all_goals
    rw [ha] at hst
    simp only [commitRow, ha, ← hst]
  case lextB | lextWL | mextB | mextWL => simp [bytesSpent]
  all_goals split_ifs <;> simp [bytesSpent]

theorem bytesLeft_commitRow (hp : pendingEvent s = none) (h : s.active ∉ [Fsm.idle, .done, .fault, .mcopy]) :
    (commitRow s).bytesLeft + 1 = s.bytesLeft := by
  have hlt := rp_lt_of_no_event hp h
  have hrp : (commitRow s).rp = s.rp + 1 := by
    by_cases hl : s.active = .lcopy
    · exact congrArg State.rp (commitRow_lcopy hl)
    · exact congrArg State.rp (commitRow_read (by simp_all))
  rw [State.bytesLeft, State.bytesLeft, hrp, (StepFrame.commitRow hp).inEnd, advance_toNat hlt]
  bv_omega

/-- A match byte is one less to copy, also with the last, after which TOKEN has none. -/
theorem matchBytesLeft_commitRow (h : s.active = .mcopy) (h0 : s.mlen ≠ 0) :
    (commitRow s).matchBytesLeft + 1 = s.matchBytesLeft ∧ bytesSpent (commitRow s).st = 0 := by
  have hst := (st_of_active h (by decide)).2
  obtain ⟨hlen, hroute⟩ := countMatchByte_matchLeft (s.writeOut s.wp.toNat (s.readOut (matchSource s))).advanceOut
  rw [← commitRow_mcopy h] at hlen hroute
  rw [State.matchBytesLeft, State.matchBytesLeft, if_pos hst, hroute, hlen]
  have : (s.mlen - 1).toNat + 1 = s.mlen.toNat := by bv_omega
  split_ifs <;> simp_all [bytesSpent]

/-- Every row of a working state lowers the bound. -/
theorem stepsLeft_commitRow (hr : s.rst = false) (hb : isBusy s = true) (he : s.entered)
    (hp : pendingEvent s = none) : (commitRow s).stepsLeft < s.stepsLeft := by
  have hact := active_of hr
  have hmlen := (commitRow s).mlen.isLt
  by_cases hm : s.st = .mcopy
  · have h0 : s.mlen ≠ 0 := by
      simp only [State.entered, hm] at he
      exact he.1
    obtain ⟨hmatch, hspent⟩ := matchBytesLeft_commitRow (hact.trans hm) h0
    have hbytes : (commitRow s).bytesLeft = s.bytesLeft := by rw [commitRow_mcopy (hact.trans hm)]; rfl
    have hspent' : bytesSpent s.st = 0 := by rw [hm]; rfl
    rw [State.stepsLeft, State.stepsLeft, hbytes, hspent, hspent']
    omega
  · have hbytes := bytesLeft_commitRow hp (by simp_all [isBusy_iff])
    have hspent := commitRow_bytesSpent hr (by simp_all [isBusy_iff])
    simp only [State.stepsLeft, State.matchBytesLeft, if_neg hm]
    rcases hspent with ⟨hst, hpos⟩ | ⟨hst, hle⟩
    · rw [if_pos hst, hst, show bytesSpent .mcopy = 0 from rfl]
      omega
    · rw [if_neg hst]
      omega

/-- From a working state whose demands are met, the run ends within the bound. -/
theorem exists_endsIn (hr : s.rst = false) (hb : isBusy s = true) (he : s.entered) (hn : s.stepsLeft ≤ n) :
    ∃ k, k ≤ n ∧ EndsIn k s := by
  induction n generalizing s with
  | zero => unfold State.stepsLeft at hn; omega
  | succ n ih =>
    cases hp : pendingEvent s with
    | some e => exact ⟨1, by omega, .of_event hp⟩
    | none =>
      have hstep : step s = .next (commitRow s) := (step_eq_transition s).trans (transition_of_none hp)
      rcases commitRow_end_cases hr hb with hbusy | ⟨-, -, -, hdone⟩
      · have hlt := stepsLeft_commitRow hr hb he hp
        obtain ⟨k, hk, h⟩ := ih ((step_frame hstep).rst.trans hr) hbusy (commitRow_entered he hr) (by omega)
        exact ⟨k + 1, by omega, h.succ hstep⟩
      · exact ⟨1, by omega, (EndsIn.zero (by rw [hdone])).succ hstep⟩

end Sys2Proof.Machine

open Sys2Proof Sys2Proof.Machine

/-- Settles O27: in TOKEN the bound on the micro-steps left is the one stated. -/
theorem everyRunEndsWithinBound : Obligations.EveryRunEndsWithinBound := by
  unfold Obligations.EveryRunEndsWithinBound
  intro s hr hs
  obtain ⟨k, hk, h⟩ := exists_endsIn hr ((isBusy_iff s).2 (by simp [hs])) (by simp [State.entered, hs])
    (Nat.le_refl _)
  refine ⟨k, ?_, h, h.isOver, exists_observeRun h.isOver⟩
  simpa [State.stepsLeft, State.matchBytesLeft, State.bytesLeft, bytesSpent, hs] using hk
end

section
/-! PROOF. A whole block (44_control.md R223, R226, R230): the records up to the EOD record, run one after another, each
from the TOKEN state the one before it left. -/

namespace Sys2Proof.Machine

open Sys2Proof

variable {s : State} {n fuel : Nat} {r : Record} {rs : List Record} {bs cs rest out out' : List Byte}

/-! ### Reading a block -/

/-- A block begins with a record, and ends with it or goes on with a block. -/
theorem takeBlock_succ (h : takeBlock (fuel + 1) bs = some (rs, rest)) : ∃ r mid, takeRecord bs = some (r, mid) ∧
    ((r.isEod = true ∧ rs = [r] ∧ rest = mid) ∨
     (r.isEod = false ∧ ∃ rs', takeBlock fuel mid = some (rs', rest) ∧ rs = r :: rs')) := by
  rw [takeBlock, Option.bind_eq_bind, Option.bind_eq_some_iff] at h
  obtain ⟨⟨r, mid⟩, hr, h⟩ := h
  refine ⟨r, mid, hr, ?_⟩
  cases he : r.isEod with
  | true =>
    simp only [he, if_true, pure, Option.some.injEq, Prod.mk.injEq] at h
    exact .inl ⟨rfl, h.1.symm, h.2.symm⟩
  | false =>
    simp only [he, Bool.false_eq_true, if_false, Option.bind_eq_bind, Option.bind_eq_some_iff, pure,
      Option.some.injEq, Prod.mk.injEq] at h
    obtain ⟨⟨rs', tail⟩, h, rfl, rfl⟩ := h
    exact .inr ⟨rfl, rs', h, rfl⟩

/-- What a block leaves over is the end of the list. -/
theorem takeBlock_suffix (h : takeBlock fuel bs = some (rs, rest)) : ∃ cs, cs ++ rest = bs := by
  induction fuel generalizing bs rs with
  | zero => cases h
  | succ fuel ih =>
    obtain ⟨r, mid, hr, ⟨-, -, rfl⟩ | ⟨-, rs', h', -⟩⟩ := takeBlock_succ h
    · exact ⟨_, (takeRecord_eq_some_iff.1 hr).2⟩
    · obtain ⟨cs, rfl⟩ := ih h'
      exact ⟨r.bytes ++ cs, by rw [List.append_assoc, (takeRecord_eq_some_iff.1 hr).2]⟩

/-! ### The length of the output -/

theorem length_copyMatch (d n : Nat) (out : List Byte) : (copyMatch d n out).length = out.length + n := by
  induction n generalizing out with
  | zero => rfl
  | succ n ih => rw [copyMatch, ih, List.length_append, List.length_singleton]; omega

/-- A record makes its literals and its match bytes (44_control.md R229). -/
theorem Record.length_expand (h : r.expand out = some out') :
    out'.length = out.length + (r.lits.length + r.mlen) := by
  obtain ⟨d, -, ⟨n, hn, -, rfl⟩ | ⟨hn, rfl⟩⟩ := Record.expand_eq_some h
  · rw [length_copyMatch, List.length_append, Record.mlen, hn, Nat.add_assoc]
  · rw [List.length_append, Record.mlen, hn, Nat.add_zero]

theorem length_le_expandAll (h : expandAll out rs = some out') : out.length ≤ out'.length := by
  induction rs generalizing out with
  | nil => cases h; exact Nat.le_refl _
  | cons r rs ih =>
    rw [expandAll, Option.bind_eq_some_iff] at h
    obtain ⟨mid, hr, h⟩ := h
    have := Record.length_expand hr
    have := ih h
    omega

theorem expandAll_singleton (out : List Byte) (r : Record) : expandAll out [r] = r.expand out := by
  simp [expandAll]

/-! ### The run of a block -/

/-- At the origin nothing is produced yet (44_control.md R224). -/
theorem produced_eq_nil (h : s.wp = s.org) : s.produced = [] :=
  List.length_eq_zero_iff.1 (by rw [length_produced, h, Nat.sub_self])

theorem State.holds.left {a : Nat} (h : s.holds a (bs ++ cs)) : s.holds a bs := fun i hi => by
  rw [h i (by rw [List.length_append]; omega), List.getElem_append_left hi]

/-- RESULT needs no reduction while the write cursor has `ADDR_W` bits (10_state.md R31). -/
theorem resultWord_of_fits (ho : s.org.toNat ≤ s.wp.toNat) (h : s.wp.toNat < 2 ^ Config.addrW) :
    (resultWord s).toNat = s.wp.toNat - s.org.toNat := by
  have hsub : (s.wp - s.org).toNat = s.wp.toNat - s.org.toNat := by bv_omega
  rw [resultWord, truncAddr_of_fits (by omega), hsub]

/-- From TOKEN, a block ahead and room for its output, the engine goes through its records to DONE. -/
theorem progress_block (hr : s.rst = false) (hs : s.st = .token) (h : takeBlock fuel (cs ++ rest) = some (rs, rest))
    (hb : s.ahead cs) (hroom : s.room n) (hn : s.produced.length + n = out.length)
    (hout : expandAll s.produced rs = some out) :
    ∃ t, Progress (rs.map Record.steps).sum cs.length n s t out ∧ t.st = .done := by
  induction fuel generalizing s cs rs n with
  | zero => cases h
  | succ fuel ih =>
    obtain ⟨r, mid, htake, hrest⟩ := takeBlock_succ h
    obtain ⟨hw, hbytes⟩ := takeRecord_eq_some_iff.1 htake
    rcases hrest with ⟨he, rfl, rfl⟩ | ⟨he, rs', h', rfl⟩
    · obtain rfl := List.append_cancel_right hbytes
      rw [expandAll_singleton] at hout
      have hlen := Record.length_expand hout
      obtain rfl : n = r.lits.length + r.mlen := by omega
      obtain ⟨t, p, ht⟩ := progress_record hr hs hw hb hroom hout
      rw [List.map_singleton, List.sum_singleton, Record.length_bytes hw]
      exact ⟨t, p, by rwa [he] at ht⟩
    · obtain ⟨cs', rfl⟩ := takeBlock_suffix h'
      rw [← List.append_assoc] at hbytes
      obtain rfl := List.append_cancel_right hbytes
      rw [expandAll, Option.bind_eq_some_iff] at hout
      obtain ⟨mid, hexp, hout⟩ := hout
      have hlen := Record.length_expand hexp
      have hle := length_le_expandAll hout
      obtain ⟨m, rfl⟩ : ∃ m, n = r.lits.length + r.mlen + m := ⟨n - (r.lits.length + r.mlen), by omega⟩
      obtain ⟨t, p, ht⟩ := progress_record hr hs hw hb.left ((Progress.refl s).room hroom (by omega)) hexp
      rw [he] at ht
      obtain ⟨u, p', hu⟩ := ih (p.rst hr) ht h' (p.ahead (Record.length_bytes hw) hb) (p.room hroom (Nat.le_refl _))
        (by rw [p.produced]; omega) (by rwa [p.produced])
      rw [List.map_cons, List.sum_cons, List.length_append, Record.length_bytes hw]
      exact ⟨u, p.trans p', hu⟩

end Sys2Proof.Machine

open Sys2Proof Sys2Proof.Machine

/-- Settles O30: the records of the block, one after another, from an empty output. -/
theorem blockDecompresses : Obligations.BlockDecompresses := by
  unfold Obligations.BlockDecompresses
  intro s block rest out rs htake hexp hr hs hwp hend hholds hin hout hsize
  obtain ⟨cs, rfl⟩ := takeBlock_suffix htake
  have hlen : (cs ++ rest).length - rest.length = cs.length := by rw [List.length_append, Nat.add_sub_cancel]
  rw [hlen] at hin ⊢
  have hempty := produced_eq_nil hwp
  obtain ⟨t, p, ht⟩ := progress_block (n := out.length) hr hs htake ⟨hholds.left, hin⟩
    ⟨by rw [hwp], by rwa [hwp], by rwa [hwp]⟩ (by rw [hempty]; exact Nat.zero_add _) (by rwa [hempty])
  have hf := run_frame p.run
  have hwp' : t.wp.toNat = s.org.toNat + out.length := by rw [p.wp, hwp]
  have hresult : (resultWord t).toNat = out.length := by
    rw [resultWord_of_fits (by rw [hf.org]; omega) (by omega), hf.org]
    omega
  have hkept := p.kept
  rw [hwp', hwp] at hkept
  exact ⟨t, p.run, ht, p.produced, hresult, p.rp, hf.inMem, hkept⟩
end

section
/-! PROOF. A run is a function of the block (44_control.md R228): two engines that agree on the registers, the block and
the bytes produced, wherever their outputs stand, take each step alike. -/

namespace Sys2Proof.Machine

open Sys2Proof

variable {s t : State}

/-! ### The registers of one engine in the surroundings of another -/

/-- `s` with the memories, the output range and the host's side of `t`; the read cursor, the block's end, the mode and
the datapath are those of `s`. -/
def State.within (s t : State) : State :=
  { s with
    ie := t.ie
    org := t.org
    wp := t.wp
    outEnd := t.outEnd
    rp0 := t.rp0
    inMem := t.inMem
    outMem := t.outMem
    stale := t.stale
    hostReads := t.hostReads }

/-- The registers a row leaves do not depend on the surroundings, but for the byte read. -/
theorem commitRow_within {u : State} (hb : s.active ∉ [Fsm.idle, .done, .fault, .mcopy] →
    (s.within u).readIn (s.within u).rp.toNat = s.readIn s.rp.toNat) :
    ∃ v, commitRow (s.within u) = (commitRow s).within v := by
  have hactive : (s.within u).active = s.active := rfl
  have htok : (s.within u).tok = s.tok := rfl
  have hext : (s.within u).ext = s.ext := rfl
  have hllen : (s.within u).llen = s.llen := rfl
  have hmlen : (s.within u).mlen = s.mlen := rfl
  cases ha : s.active
  case idle | done | fault => exact ⟨u, by simp only [commitRow, hactive, ha]⟩
  case lcopy =>
    refine ⟨{ u with outMem := u.outMem.writeOut u.wp.toNat (s.readIn s.rp.toNat), wp := u.wp + 1 }, ?_⟩
    simp only [commitRow, hactive, ha, hb (by simp [ha]), hllen]
    split_ifs <;> rfl
  case mcopy =>
    refine ⟨{ u with
      outMem := u.outMem.writeOut u.wp.toNat ((s.within u).readOut (matchSource (s.within u))), wp := u.wp + 1 }, ?_⟩
    simp only [commitRow, hactive, ha, hmlen]
    split_ifs <;> rfl
  all_goals
    refine ⟨u, ?_⟩
    simp only [commitRow, hactive, ha, hb (by simp [ha]), htok, hext]
  case lextB | lextWL | mextB | mextWL => rfl
  all_goals split_ifs <;> rfl

/-! ### The bytes a row appends -/

/-- A match byte comes from the output, a distance before its end (43_match.md R200). -/
theorem readOut_matchSource (ho : s.org.toNat + s.dist.toNat ≤ s.wp.toNat) (hpos : 1 ≤ s.dist.toNat) :
    s.readOut (matchSource s) = s.produced.getD (s.produced.length - s.dist.toNat) 0 := by
  have hlen := length_produced s
  rw [produced_getD (by omega), matchSource]
  congr 1
  omega

/-- The bytes a row appends to the output: one where it copies, from the block or from the output itself. -/
def State.emitted (s : State) : List Byte :=
  match s.active with
  | .lcopy => [s.readIn s.rp.toNat]
  | .mcopy => [s.produced.getD (s.produced.length - s.dist.toNat) 0]
  | _ => []

theorem produced_commitRow (hp : pendingEvent s = none) (horg : s.org.toNat ≤ s.wp.toNat)
    (hsize : s.outEnd.toNat ≤ Config.outSize) (hpos : s.active = .mcopy → 1 ≤ s.dist.toNat) :
    (commitRow s).produced = s.produced ++ s.emitted := by
  have happend {v : Byte} (hw : s.wp < s.outEnd) (hwp : (commitRow s).wp = s.wp + 1)
      (hm : (commitRow s).outMem = s.outMem.writeOut s.wp.toNat v) : (commitRow s).produced = s.produced ++ [v] :=
    produced_append horg (by bv_omega) (StepFrame.commitRow hp).org (hwp ▸ advance_toNat hw) hm
  cases ha : s.active
  case lcopy =>
    simp only [State.emitted, ha]
    exact happend (wp_lt_of_no_event hp (.inl ha)) (by rw [commitRow_lcopy ha]; rfl) (by rw [commitRow_lcopy ha]; rfl)
  case mcopy =>
    simp only [State.emitted, ha]
    rw [← readOut_matchSource (origin_le_of_no_event hp ha) (hpos ha)]
    exact happend (wp_lt_of_no_event hp (.inr ha)) (by rw [commitRow_mcopy ha]; rfl) (by rw [commitRow_mcopy ha]; rfl)
  case idle | done | fault => simp only [State.emitted, commitRow, ha, List.append_nil]
  all_goals
    simp only [State.emitted, ha, List.append_nil]
    rw [commitRow_read (by simp [ha])]
    exact produced_congr rfl rfl rfl

/-! ### Two engines that run alike -/

/-- Two engines in the same registers, with the same block left, as much room after the same output, wherever each has
its origin; what else IN and OUT hold is free. -/
structure Alike (s t : State) : Prop where
  regs : ∃ u, t = s.within u
  rst : s.rst = false
  entered : s.entered
  org : s.org.toNat ≤ s.wp.toNat
  org' : t.org.toNat ≤ t.wp.toNat
  capacity : s.outEnd.toNat - s.org.toNat = t.outEnd.toNat - t.org.toNat
  size : s.outEnd.toNat ≤ Config.outSize
  size' : t.outEnd.toNat ≤ Config.outSize
  block : ∀ a, s.rp.toNat ≤ a → a < s.inEnd.toNat → s.readIn a = t.readIn a
  produced : s.produced = t.produced

theorem Alike.wp (h : Alike s t) : s.wp.toNat - s.org.toNat = t.wp.toNat - t.org.toNat := by
  rw [← length_produced, ← length_produced, h.produced]

theorem Alike.active (h : Alike s t) : t.active = s.active := by
  obtain ⟨u, rfl⟩ := h.regs; rfl

theorem Alike.chk (h : Alike s t) : t.chk = s.chk := by
  obtain ⟨u, rfl⟩ := h.regs; rfl

theorem Alike.dist (h : Alike s t) : t.dist = s.dist := by
  obtain ⟨u, rfl⟩ := h.regs; rfl

theorem Alike.byte (h : Alike s t) (hr : s.rp < s.inEnd) : t.readIn t.rp.toNat = s.readIn s.rp.toNat := by
  have hb := h.block s.rp.toNat (Nat.le_refl _) hr
  obtain ⟨u, rfl⟩ := h.regs
  exact hb.symm

/-- Each test of a micro-step comes out alike. -/
theorem Alike.pendingEvent (h : Alike s t) : pendingEvent t = pendingEvent s := by
  have hactive := h.active
  have hcap := h.capacity
  have hlen := h.wp
  have hout : t.outEnd ≤ t.wp ↔ s.outEnd ≤ s.wp := by
    have := h.org; have := h.org'; rw [BitVec.le_def, BitVec.le_def]; omega
  have horigin : t.wp.toNat < t.org.toNat + t.dist.toNat ↔ s.wp.toNat < s.org.toNat + s.dist.toNat := by
    have := h.org; have := h.org'; rw [h.dist]; omega
  have hin : t.inEnd ≤ t.rp ↔ s.inEnd ≤ s.rp := by obtain ⟨u, rfl⟩ := h.regs; rfl
  cases ha : s.active <;> simp only [Machine.pendingEvent, hactive, ha, hin, hout, horigin]
  case lext | mext =>
    by_cases hr : s.inEnd ≤ s.rp
    · simp only [if_pos hr]
    · simp only [h.byte (BitVec.not_le.1 hr)]

/-- A row keeps the write cursor at or after the origin (10_state.md R37). -/
theorem StepFrame.org_le (h : StepFrame s t) (ho : s.org.toNat ≤ s.wp.toNat) : t.org.toNat ≤ t.wp.toNat := by
  rcases h.out with ⟨hw, -⟩ | ⟨hlt, hw, -⟩
  · rwa [h.org, hw]
  · rw [h.org, hw, advance_toNat hlt]; omega

theorem StepFrame.rp_le (h : StepFrame s t) : s.rp.toNat ≤ t.rp.toNat := by
  rcases h.rp with hr | ⟨hlt, hr⟩
  · rw [hr]
  · rw [hr, advance_toNat hlt]; omega

/-- What two steps within the frame keep of the likeness; the registers and the output are theirs to show. -/
theorem Alike.of_frame {s' t' : State} (h : Alike s t) (hs : StepFrame s s') (ht : StepFrame t t')
    (hregs : ∃ u, t' = s'.within u) (he : s'.entered) (hp : s'.produced = t'.produced) : Alike s' t' where
  regs := hregs
  rst := hs.rst.trans h.rst
  entered := he
  org := hs.org_le h.org
  org' := ht.org_le h.org'
  capacity := by rw [hs.outEnd, hs.org, ht.outEnd, ht.org, h.capacity]
  size := hs.outEnd ▸ h.size
  size' := ht.outEnd ▸ h.size'
  block a hlo hhi := by
    rw [State.readIn_congr hs.inMem, State.readIn_congr ht.inMem]
    exact h.block a (hs.rp_le.trans hlo) (hs.inEnd ▸ hhi)
  produced := hp

theorem dist_pos_of_entered (he : s.entered) (h : s.active = .mcopy) : 1 ≤ s.dist.toNat := by
  simp only [State.entered, (st_of_active h (by decide)).2] at he
  exact he.2.1

theorem Alike.emitted (h : Alike s t) (hp : Machine.pendingEvent s = none) : t.emitted = s.emitted := by
  unfold State.emitted
  rw [h.active]
  cases ha : s.active
  case lcopy => simp only [h.byte (rp_lt_of_no_event hp (by simp [ha]))]
  case mcopy => simp only [h.dist, h.produced]
  all_goals rfl

/-- The rows of two engines alike leave them alike. -/
theorem Alike.commitRow (h : Alike s t) (hp : Machine.pendingEvent s = none) :
    Alike (commitRow s) (commitRow t) := by
  have hp' : Machine.pendingEvent t = none := h.pendingEvent.trans hp
  have hpos := dist_pos_of_entered h.entered
  refine h.of_frame (.commitRow hp) (.commitRow hp') ?_ (commitRow_entered h.entered h.rst) ?_
  · have hbyte := fun ha => h.byte (rp_lt_of_no_event hp ha)
    obtain ⟨u, rfl⟩ := h.regs
    exact commitRow_within hbyte
  · rw [produced_commitRow hp h.org h.size hpos, h.produced, ← h.emitted hp]
    exact (produced_commitRow hp' h.org' h.size' (by rwa [h.active, h.dist])).symm

/-- A pending event is a working state's. -/
theorem isBusy_of_event {e : Event} (h : pendingEvent s = some e) : isBusy s = true := by
  refine (isBusy_of_active ?_ ?_ ?_).2 <;> intro ha <;> simp [pendingEvent, ha] at h

/-- A step of two engines alike leaves both alike, or stops both for the same reason. -/
theorem Alike.step (h : Alike s t) : (∃ s' t', step s = .next s' ∧ step t = .next t' ∧ Alike s' t') ∨
    ∃ f, step s = .fault f ∧ step t = .fault f := by
  have hp' := h.pendingEvent
  rw [step_eq_transition, step_eq_transition]
  cases hp : Machine.pendingEvent s with
  | none =>
    rw [hp] at hp'
    exact .inl ⟨_, _, transition_of_none hp, transition_of_none hp', h.commitRow hp⟩
  | some e =>
    rw [hp] at hp'
    rw [transition_of_some hp, transition_of_some hp']
    cases hc : s.chk with
    | true =>
      refine .inl ⟨_, _, raise_checked hc _ _, raise_checked (h.chk.trans hc) _ _, ?_⟩
      refine h.of_frame (.takeFault s _ e) (.takeFault t _ e) ?_ (takeFault_entered (isBusy_of_event hp) e) h.produced
      obtain ⟨u, rfl⟩ := h.regs
      exact ⟨u, rfl⟩
    | false => exact .inr ⟨_, raise_unchecked hc _ _, raise_unchecked (h.chk.trans hc) _ _⟩

theorem Alike.run (h : Alike s t) (k : Nat) : (∃ s' t', run k s = .next s' ∧ run k t = .next t' ∧ Alike s' t') ∨
    ∃ f, run k s = .fault f ∧ run k t = .fault f := by
  induction k generalizing s t with
  | zero => exact .inl ⟨s, t, rfl, rfl, h⟩
  | succ k ih =>
    rcases h.step with ⟨s', t', hs, ht, h'⟩ | ⟨f, hs, ht⟩
    · rw [run_succ_of_next hs, run_succ_of_next ht]; exact ih h'
    · exact .inr ⟨f, run_succ_of_fault hs, run_succ_of_fault ht⟩

end Sys2Proof.Machine

open Sys2Proof Sys2Proof.Machine

/-- Settles O28: two engines just started on the same block are alike, and stay so. -/
theorem runIsFunctionOfTheBlock : Obligations.RunIsFunctionOfTheBlock := by
  unfold Obligations.RunIsFunctionOfTheBlock
  intro s t hrs hrt hs ht hws hwt hchk hrp hin hcap hsize hsize' htok hbid hext hllen hmlen hdist hfcode hfstate
    hblock k
  have hregs : t = s.within t := by
    rw [State.within, hs, ← ht, hrs, ← hrt, hchk, hrp, hin, htok, hbid, hext, hllen, hmlen, hdist, hfcode, hfstate]
  have hstart : Alike s t := {
    regs := ⟨t, hregs⟩
    rst := hrs
    entered := by simp [State.entered, hs]
    org := by rw [hws]
    org' := by rw [hwt]
    capacity := hcap
    size := hsize
    size' := hsize'
    block := hblock
    produced := by rw [produced_eq_nil hws, produced_eq_nil hwt] }
  rcases hstart.run k with ⟨s', t', hs', ht', h⟩ | hfault
  · have hlen := h.wp
    rw [(run_frame hs').org, (run_frame ht').org] at hlen
    refine .inl ⟨s', t', hs', ht', ?_⟩
    have hp := h.produced
    obtain ⟨u, rfl⟩ := h.regs
    exact ⟨rfl, rfl, rfl, rfl, rfl, rfl, rfl, rfl, rfl, rfl, hlen, hp⟩
  · exact .inr hfault
end

section
/-! PROOF. The out-of-contract events (60_exceptions.md R250 to R256): the step of a state with an event pending, the
event of each row of R251 in the order of its tests, what enters FAULT, and a change of mode. -/

namespace Sys2Proof.Machine

open Sys2Proof

variable {s t : State} {e : Event}

/-! ### An event pending, or none -/

theorem step_of_event (h : pendingEvent s = some e) : step s = raise s s.st e :=
  (step_eq_transition s).trans (transition_of_some h)

theorem step_of_no_event (h : pendingEvent s = none) : step s = .next (commitRow s) :=
  (step_eq_transition s).trans (transition_of_none h)

/-- A raised event is a fault entry in checked mode and a stop in unchecked mode (R250, R251). -/
theorem raise_by_mode (h : step s = raise s s.st e) :
    (s.chk = true → step s = .next (s.takeFault s.st e)) ∧ (s.chk = false → step s = .fault (.unspecified e)) :=
  ⟨fun hc => h.trans (raise_checked hc _ _), fun hc => h.trans (raise_unchecked hc _ _)⟩

/-- A row of a working state does not lead to FAULT. -/
theorem commitRow_st_ne_fault (hr : s.rst = false) (hb : isBusy s = true) : (commitRow s).st ≠ .fault := by
  rcases commitRow_end_cases hr hb with hbusy | ⟨-, -, -, hdone⟩
  · exact ((isBusy_iff _).1 hbusy).2.2
  · rw [hdone]; exact nofun

/-- FAULT is entered in checked mode only, by the fault entry of the pending event (R254, R259). -/
theorem step_enters_fault (h : step s = .next t) (hs : s.st ≠ .fault) (ht : t.st = .fault) :
    s.chk = true ∧ ∃ e, pendingEvent s = some e ∧ t = s.takeFault s.st e := by
  have hne : t ≠ s := fun hts => hs (hts ▸ ht)
  rcases step_end_cases h hne (by simp [isBusy, ht]) with ⟨-, -, -, rfl⟩ | hentry
  · cases ht
  · exact hentry

/-! ### The tests of each row, in their order (R256) -/

/-- A state that reads and neither copies nor reads a first extension byte has the one test of its read. -/
theorem pendingEvent_read
    (h : s.active ∈ [Fsm.token, .lextB, .lextWL, .lextWH, .ofsLo, .ofsHi, .mextB, .mextWL, .mextWH]) :
    pendingEvent s = if s.inEnd ≤ s.rp then some .inOverrun else none := by
  cases ha : s.active
  case idle | lext | lcopy | mext | mcopy | done | fault => simp [ha] at h
  all_goals simp only [pendingEvent, ha]

theorem step_st_inOverrun {f : Fsm} (hr : s.rst = false) (hs : s.st = f)
    (hf : f ≠ .idle ∧ f ≠ .done ∧ f ≠ .fault ∧ f ≠ .mcopy) (hle : s.inEnd ≤ s.rp) : step s = raise s f .inOverrun := by
  subst hs
  obtain ⟨hidle, hdone, hfault, hmcopy⟩ := hf
  exact step_inOverrun hr ((isBusy_iff s).2 ⟨hidle, hdone, hfault⟩) hmcopy hle

theorem step_lcopy_outOverrun (hr : s.rst = false) (hs : s.st = .lcopy) (hlt : s.rp < s.inEnd)
    (hw : s.outEnd ≤ s.wp) : step s = raise s .lcopy .outOverrun := by
  rw [step_lcopy (active_of_st hr hs), literalCopy_outOverrun hlt hw]

theorem step_mcopy_origin (hr : s.rst = false) (hs : s.st = .mcopy)
    (ho : s.wp.toNat < s.org.toNat + s.dist.toNat) : step s = raise s .mcopy .origin := by
  rw [step_mcopy (active_of_st hr hs), matchCopy_origin (decide_eq_true ho)]

theorem step_mcopy_outOverrun (hr : s.rst = false) (hs : s.st = .mcopy)
    (ho : s.org.toNat + s.dist.toNat ≤ s.wp.toNat) (hw : s.outEnd ≤ s.wp) :
    step s = raise s .mcopy .outOverrun := by
  rw [step_mcopy (active_of_st hr hs), matchCopy_outOverrun (beforeOrigin_eq_false.2 ho) hw]

theorem step_lext_reserved (hr : s.rst = false) (hs : s.st = .lext) (hlt : s.rp < s.inEnd)
    (hb : 251 ≤ (s.readIn s.rp.toNat).toNat) : step s = raise s .lext .rsvdLext := by
  rw [step_lext_rsvd (active_of_st hr hs) hb, reservedStep_raise hlt]

theorem step_mext_reserved (hr : s.rst = false) (hs : s.st = .mext) (hlt : s.rp < s.inEnd)
    (hb : 240 ≤ (s.readIn s.rp.toNat).toNat) : step s = raise s .mext .rsvdMext := by
  rw [step_mext_rsvd (active_of_st hr hs) hb, reservedStep_raise hlt]

/-! ### The same state in the other mode -/

theorem pendingEvent_withChk (s : State) (c : Bool) : pendingEvent { s with chk := c } = pendingEvent s := rfl

/-- No row looks at the mode (R250). -/
theorem commitRow_withChk (s : State) (c : Bool) : commitRow { s with chk := c } = { commitRow s with chk := c } := by
  have hactive : State.active { s with chk := c } = s.active := rfl
  have hbyte (a : Nat) : State.readIn { s with chk := c } a = s.readIn a := rfl
  cases ha : s.active <;> simp only [commitRow, hactive, ha, hbyte]
  all_goals split_ifs <;> rfl

/-- With no event pending the step is the state's row in either mode. -/
theorem step_withChk_of_no_event (h : pendingEvent s = none) (c : Bool) :
    step { s with chk := c } = .next { commitRow s with chk := c } := by
  rw [step_of_no_event ((pendingEvent_withChk s c).trans h), commitRow_withChk]

end Sys2Proof.Machine

open Sys2Proof Sys2Proof.Machine

/-- Settles O35: the step is fault entry, and FAULT is a quiet state. -/
theorem faultEntryRecordsAndStops : Obligations.FaultEntryRecordsAndStops := by
  unfold Obligations.FaultEntryRecordsAndStops
  intro s e hc hp
  have hstep := (raise_by_mode (step_of_event hp)).1 hc
  have hq : (s.takeFault s.st e).active ∈ [Fsm.idle, .done, .fault] := active_quiet (.inr (.inr (.inl rfl)))
  exact ⟨s.takeFault s.st e, hstep, rfl, rfl, rfl, Bool.and_true s.ie, accesses_quiet hq,
    run_quiet (.inr (.inr rfl))⟩

/-- Settles O36: each row raises its event, and nothing else stops a step or enters FAULT. -/
theorem eventsRaisedAsTabled : Obligations.EventsRaisedAsTabled := by
  unfold Obligations.EventsRaisedAsTabled
  refine ⟨?_, ?_, ?_, ?_, ?_, ?_, ?_⟩
  · rintro s hr ⟨hidle, hdone, hfault, hmcopy, hle⟩
    exact raise_by_mode (step_st_inOverrun hr rfl ⟨hidle, hdone, hfault, hmcopy⟩ hle)
  · rintro s hr ⟨⟨hs, hlt⟩ | ⟨hs, ho⟩, hw⟩
    · exact raise_by_mode (hs.symm ▸ step_lcopy_outOverrun hr hs hlt hw)
    · exact raise_by_mode (hs.symm ▸ step_mcopy_outOverrun hr hs ho hw)
  · rintro s hr ⟨hs, ho⟩
    exact raise_by_mode (hs.symm ▸ step_mcopy_origin hr hs ho)
  · rintro s hr ⟨hs, hlt, hb⟩
    exact raise_by_mode (hs.symm ▸ step_lext_reserved hr hs hlt hb)
  · rintro s hr ⟨hs, hlt, hb⟩
    exact raise_by_mode (hs.symm ▸ step_mext_reserved hr hs hlt hb)
  · intro s f hf
    rcases step_stop_cases s with ⟨t, hstep⟩ | ⟨hc, e, hp, hstep⟩ <;> rw [hstep] at hf <;> cases hf
    exact ⟨hc, e, rfl, hp⟩
  · intro s t hstep hs ht
    obtain ⟨hc, e, hp, rfl⟩ := step_enters_fault hstep hs ht
    exact ⟨hc, e, hp, rfl⟩

/-- Settles O37: the order of the tests row by row; the raised event leaves FAULT, where the run stays. -/
theorem eventPriorityIsPseudocodeOrder : Obligations.EventPriorityIsPseudocodeOrder := by
  unfold Obligations.EventPriorityIsPseudocodeOrder
  refine ⟨fun s hr hs => step_st_inOverrun hr hs (by decide), fun s => step_lcopy_outOverrun,
    fun s => step_mcopy_origin, fun s => step_mcopy_outOverrun, fun s hr hs => step_st_inOverrun hr hs (by decide),
    fun s => step_lext_reserved, fun s hr hs => step_st_inOverrun hr hs (by decide), fun s => step_mext_reserved,
    fun s hr hs => ?_, fun s t f e h => ?_⟩
  · have hp := pendingEvent_read ((active_of hr).symm ▸ hs)
    have hb : isBusy s = true := (isBusy_iff s).2 (by revert hs; cases s.st <;> decide)
    refine ⟨fun hle => ?_, fun hlt => ?_⟩
    · rw [if_pos hle] at hp
      exact step_of_event hp
    · rw [if_neg (BitVec.not_le.2 hlt)] at hp
      exact ⟨_, step_of_no_event hp, commitRow_st_ne_fault hr hb⟩
  · rw [eq_takeFault_of_raise h]
    exact run_quiet (.inr (.inr rfl))

/-- Settles O39: only a step in unchecked mode stops. -/
theorem checkedModeNeverStops : Obligations.CheckedModeNeverStops := by
  unfold Obligations.CheckedModeNeverStops
  intro s hc
  rcases step_stop_cases s with hnext | ⟨hc', -⟩
  · exact hnext
  · rw [hc] at hc'; cases hc'

/-- Settles O41: an unchecked step that does not stop found no event pending, and no row looks at the mode. -/
theorem modesAgreeInContract : Obligations.ModesAgreeInContract := by
  unfold Obligations.ModesAgreeInContract
  refine ⟨fun s t hstep => ?_, fun s hp c => ⟨_, step_withChk_of_no_event hp c, rfl⟩⟩
  cases hp : pendingEvent s with
  | none =>
    rw [step_withChk_of_no_event hp] at hstep ⊢
    cases hstep
    rfl
  | some e =>
    rw [step_of_event (s := { s with chk := false }) hp, raise_unchecked rfl] at hstep
    cases hstep
end

section
/-! PROOF. The fault record and the FAULT state under steps and host actions, and the level of `irq`
(60_exceptions.md R253, R259, R260). -/

namespace Sys2Proof.Machine

open Sys2Proof

variable {s t : State}

/-- A step keeps the fault code or records an event's (R253, R254). -/
theorem step_fcode_cases (h : step s = .next t) : t.fcode = s.fcode ∨ ∃ e, t.fcode = eventCode e := by
  rcases step_next_cases h with rfl | ⟨-, -, ⟨-, rfl⟩ | ⟨-, e, -, rfl⟩⟩
  · exact .inl rfl
  · exact .inl (commitRow_fault_record s).1
  · exact .inr ⟨e, rfl⟩

/-! ### What a host action does to the fault state -/

/-- From `s` to `t` the FSM state and the fault code are kept, or a run begins or the engine is reset, which leaves
no fault and no code (R253, R257). -/
def FaultKeptOrCleared (s t : State) : Prop := (t.st = s.st ∧ t.fcode = s.fcode) ∨ (t.st ≠ .fault ∧ t.fcode = 0)

theorem FaultKeptOrCleared.refl (s : State) : FaultKeptOrCleared s s := .inl ⟨rfl, rfl⟩

theorem FaultKeptOrCleared.writeCtrl (s : State) (v : Word) : FaultKeptOrCleared s (writeCtrl s v) := by
  cases hb : isBusy s
  · cases hv : v.getLsbD 0
    · rw [writeCtrl_modes hb hv]; exact .inl ⟨rfl, rfl⟩
    · rw [writeCtrl_start hb hv]; exact .inr ⟨nofun, rfl⟩
  · rw [writeCtrl_busy hb]; exact .inl ⟨rfl, rfl⟩

theorem FaultKeptOrCleared.writeIdle (h : FaultKeptOrCleared s t) : FaultKeptOrCleared s (writeIdle s t) := by
  cases hb : isBusy s
  · rwa [writeIdle_idle hb]
  · rw [writeIdle_busy hb]; exact .refl s

theorem FaultKeptOrCleared.writeReg (s : State) (r : Reg) (v : Word) : FaultKeptOrCleared s (writeReg s r v) := by
  cases hr : s.rst
  case true => rw [writeReg_held hr]; exact .refl s
  cases r
  case ctrl => rw [writeReg_ctrl hr]; exact .writeCtrl s v
  case inPtr => rw [writeReg_inPtr hr]; exact .writeIdle (.inl ⟨rfl, rfl⟩)
  case inEnd => rw [writeReg_inEnd hr]; exact .writeIdle (.inl ⟨rfl, rfl⟩)
  case outOrg => rw [writeReg_outOrg hr]; exact .writeIdle (.inl ⟨rfl, rfl⟩)
  case outEnd => rw [writeReg_outEnd hr]; exact .writeIdle (.inl ⟨rfl, rfl⟩)
  all_goals rw [writeReg_readOnly (by simp)]; exact .refl s

/-- No host action sets FAULT or a fault code (R259). -/
theorem FaultKeptOrCleared.hostStep {op : HostOp} (h : hostStep op s = .next t) : FaultKeptOrCleared s t := by
  cases op <;> simp only [Machine.hostStep] at h
  case writeReg width off v =>
    cases ha : regAccessOk width off
    · rw [hostWriteReg_bad ha] at h; cases h
    · rw [hostWriteReg_ok ha] at h
      cases hr : regAt off <;> rw [hr] at h <;> cases h
      · exact .refl s
      · exact .writeReg s _ v
  case readReg width off =>
    cases ha : regAccessOk width off
    · rw [afterReadReg_bad ha] at h; cases h
    · rw [afterReadReg_ok ha] at h
      cases h
      split <;> exact .inl ⟨rfl, rfl⟩
  case placeIn a v =>
    rcases hostPlaceIn_cases s a v with ⟨-, he⟩ | ⟨-, he⟩ | ⟨-, -, -, he⟩ <;> rw [he] at h <;> cases h
    exact .inl ⟨rfl, rfl⟩
  case placeOut a v =>
    rcases hostPlaceOut_cases s a v with ⟨-, he⟩ | ⟨-, he⟩ | ⟨-, -, -, he⟩ <;> rw [he] at h <;> cases h
    exact .inl ⟨rfl, rfl⟩
  case readOut a =>
    rcases Nat.lt_or_ge a.toNat Config.outSize with ha | ha
    · rw [afterReadOut_of_lt ha] at h; cases h; exact .inl ⟨rfl, rfl⟩
    · rw [afterReadOut_of_le ha] at h; cases h
  case readIrq =>
    cases h
    unfold afterReadIrq
    split <;> exact .inl ⟨rfl, rfl⟩
  case setReset level =>
    cases level <;> cases h
    · exact .inl ⟨rfl, rfl⟩
    · exact .inr ⟨nofun, rfl⟩

/-! ### The level of `irq` (R260) -/

theorem irq_iff (s : State) : irq s = true ↔ s.ie = true ∧ (s.st = .done ∨ s.st = .fault) := by
  simp [irq, isDone, isFault]

theorem irq_of_ended (h : s.st = .done ∨ s.st = .fault) : irq s = s.ie := by
  rcases h with h | h <;> simp [irq, isDone, isFault, h]

theorem irq_of_ie_false (h : s.ie = false) : irq s = false := by simp [irq, h]

/-- During a run `irq` is low. -/
theorem irq_of_busy (h : isBusy s = true) : irq s = false := by
  obtain ⟨-, hdone, hfault⟩ := (isBusy_iff s).1 h
  simp [irq, isDone, isFault, hdone, hfault]

/-- A CTRL write takes IE in every state, a run in progress included (10_state.md R22, R23). -/
theorem writeCtrl_ie (s : State) (v : Word) : (writeCtrl s v).ie = v.getLsbD 2 := by
  cases hb : isBusy s
  · cases hv : v.getLsbD 0
    · rw [writeCtrl_modes hb hv]
    · rw [writeCtrl_start hb hv]; rfl
  · rw [writeCtrl_busy hb]

/-- A run's end is DONE or FAULT. -/
theorem step_ends_run (h : step s = .next t) (hs : isBusy s = true) (ht : isBusy t = false) :
    t.st = .done ∨ t.st = .fault := by
  have hne : t ≠ s := fun hts => by rw [hts, hs] at ht; cases ht
  rcases step_end_cases h hne ht with ⟨-, -, -, rfl⟩ | ⟨-, e, -, rfl⟩
  · exact .inl rfl
  · exact .inr rfl

end Sys2Proof.Machine

open Sys2Proof Sys2Proof.Machine

/-- Settles O38: a step keeps the code or records an event's, and a host action keeps it or clears it. -/
theorem faultCodesAreTheFive : Obligations.FaultCodesAreTheFive := by
  unfold Obligations.FaultCodesAreTheFive
  refine ⟨⟨rfl, rfl, rfl, rfl, rfl⟩, rfl, fun s v => rfl, fun s t hinv hstep ht => ?_, fun s t hle hstep => ?_,
    fun op s t hle hop => ?_⟩
  · exact ((hinv.step hstep).no_fault_record ht).1
  · rcases step_fcode_cases hstep with hcode | ⟨e, hcode⟩
    · rwa [hcode]
    · rw [hcode]; exact (eventCode_range e).2
  · rcases FaultKeptOrCleared.hostStep hop with ⟨-, hcode⟩ | ⟨-, hcode⟩
    · rwa [hcode]
    · rw [hcode]; exact Nat.zero_le 5

/-- Settles O40: FAULT is entered by a checked-mode step only, and by no host action. -/
theorem uncheckedModeNeverFaults : Obligations.UncheckedModeNeverFaults := by
  unfold Obligations.UncheckedModeNeverFaults
  refine ⟨fun s t hc hs hstep ht => ?_, fun s t hs hstep ht => ?_, fun op s t hs hop => ?_⟩
  · have hchk := (step_enters_fault hstep hs ht).1
    rw [hc] at hchk; cases hchk
  · have hchk := (step_enters_fault hstep hs ((isFault_iff t).1 ht)).1
    exact ⟨hchk, (step_frame hstep).chk.trans hchk⟩
  · rcases FaultKeptOrCleared.hostStep hop with ⟨hst, -⟩ | ⟨hst, -⟩
    · rwa [hst]
    · exact hst

/-- Settles O42: `irq` is IE where a run has ended and low elsewhere. -/
theorem irqIsALevel : Obligations.IrqIsALevel := by
  unfold Obligations.IrqIsALevel
  refine ⟨fun s => rfl, fun s t hstep hs ht => ?_, fun s t hstep hb ht => ?_, fun s t hstep hs => ?_,
    fun s v hr hs hv => ?_, fun s v hr hb hv => ?_, fun s v hr hv => ?_, fun s t hop => ?_⟩
  · rcases step_next_cases hstep with rfl | ⟨-, hb, -⟩
    · rw [hs] at ht; cases ht
    · have hie := ((irq_iff t).1 ht).1
      refine ⟨(step_frame hstep).ie.symm.trans hie, hb, Bool.eq_false_iff.2 fun hbt => ?_⟩
      rw [irq_of_busy hbt] at ht; cases ht
  · rw [irq_of_ended (step_ends_run hstep hb ht), (step_frame hstep).ie]
  · rw [step_quiet (.inr ((irq_iff s).1 hs).2)] at hstep
    cases hstep
    exact hs
  · have hb : isBusy s = false := by rcases hs with hs | hs <;> simp [isBusy, hs]
    rw [writeReg_ctrl hr, writeCtrl_modes hb hv]
    exact irq_of_ended hs
  · rw [writeReg_ctrl hr, writeCtrl_start hb hv]
    exact irq_of_busy rfl
  · rw [writeReg_ctrl hr]
    exact irq_of_ie_false ((writeCtrl_ie s v).trans hv)
  · cases hop
    rfl
end

section
/-! PROOF. The host's sequence for one run (70_reset_and_hazards.md R283): the five writes as one START of a configured
engine, then the run of the block, then the host's reads of its output. -/

namespace Sys2Proof.Machine

open Sys2Proof

variable {s t : State} {out : List Byte}

/-- With `rst` released and no run in progress, the five writes configure the engine with the values as written and
START it (R283, steps 4 and 6; 44_control.md R224). -/
theorem programRun_eq_start {inPtr inEnd outOrg outEnd v : Word} (hr : s.rst = false) (hb : isBusy s = false)
    (hv : v.getLsbD 0 = true) (hin : inPtr.toNat < 2 ^ Config.addrW) (hie : inEnd.toNat < 2 ^ Config.addrW)
    (horg : outOrg.toNat < 2 ^ Config.addrW) (hoe : outEnd.toNat < 2 ^ Config.addrW) :
    programRun s inPtr inEnd outOrg outEnd v =
      start { s with rp := inPtr, inEnd := inEnd, org := outOrg, outEnd := outEnd } v := by
  simp only [programRun]
  rw [writeReg_inPtr, writeIdle_idle, truncAddr_of_fits hin, writeReg_inEnd, writeIdle_idle, truncAddr_of_fits hie,
    writeReg_outOrg, writeIdle_idle, truncAddr_of_fits horg, writeReg_outEnd, writeIdle_idle, truncAddr_of_fits hoe,
    writeReg_ctrl, writeCtrl_start _ hv]
  all_goals assumption

/-- The bytes produced are the bytes of OUT from the origin on (44_control.md R231). -/
theorem readOut_of_produced (h : s.produced = out) (i : Nat) (hi : i < out.length) :
    s.readOut (s.org.toNat + i) = out[i] := by
  subst h
  rw [← produced_getD (length_produced s ▸ hi), List.getD_eq_getElem _ _ hi]

/-- An offset into an output that OUT holds is added to the origin without a wrap (20_memory.md R62, R71). -/
theorem toNat_add_ofNat_of_lt_outSize {org : Word} {i : Nat} (h : org.toNat + i < Config.outSize) :
    (org + BitVec.ofNat 32 i).toNat = org.toNat + i := by
  have hlt : org.toNat + i < 2 ^ 32 := Nat.lt_of_lt_of_le h (Nat.le_trans sizes_le.2 pow_addrW_le)
  rw [BitVec.toNat_add, BitVec.toNat_ofNat, Nat.add_mod_mod, Nat.mod_eq_of_lt hlt]

/-- After a STATUS read that returns BUSY = 0 the host's reads of OUT show the output (20_memory.md R76, R288). -/
theorem hostReadOut_of_produced (h : s.produced = out) (hsize : s.org.toNat + out.length ≤ Config.outSize)
    (hb : isBusy s = false) (ht : hostStep (.readReg 4 0x04) s = .next t) (i : Nat) (hi : i < out.length) :
    hostReadOut t (s.org + BitVec.ofNat 32 i) = .ok out[i] := by
  have haddr : s.org.toNat + i < Config.outSize := by omega
  have hnat := toNat_add_ofNat_of_lt_outSize haddr
  rw [hostStep_readStatus_idle hb] at ht
  cases ht
  rw [hostReadOut_seeEnd (hnat ▸ haddr), hnat, readOut_of_produced h i hi]

end Sys2Proof.Machine

open Sys2Proof Sys2Proof.Machine

/-- Settles O60: the sequence is a START, the block then decompresses from its TOKEN state, and DONE is not BUSY. -/
theorem hostProgramsARun : Obligations.HostProgramsARun := by
  unfold Obligations.HostProgramsARun
  intro s inPtr inEnd outOrg outEnd v hr hb hv hin hie horg hoe
  refine ⟨_, programRun_eq_start hr hb hv hin hie horg hoe, rfl, rfl, rfl, rfl, rfl, rfl, rfl, rfl, rfl, rfl, ?_⟩
  intro block rest out rs htake hexp hholds hfit hroom hsize
  obtain ⟨u, hrun, hdone, hprod, hresult, hrp, -⟩ :=
    blockDecompresses (start { s with rp := inPtr, inEnd := inEnd, org := outOrg, outEnd := outEnd } v)
      block rest out rs htake hexp hr rfl rfl hoe hholds hfit hroom hsize
  have hf := run_frame hrun
  obtain rfl : u.org = outOrg := hf.org
  have hidle : isBusy u = false := by simp [isBusy, hdone]
  exact ⟨u, hrun, (isDone_iff u).2 hdone, readOut_of_produced hprod, hresult, hrp,
    (irq_of_ended (.inl hdone)).trans hf.ie, fun w hw => hostReadOut_of_produced hprod hsize hidle hw⟩
end
